-- ==== Sys2Proof/Word.lean ====
section
/-! DEFINITION. The plainest types of the block: bytes and line levels (spec/00_scope.md R10). -/

namespace Sys2Proof

/-- A byte is 8 bits (R7), bit 0 the least significant (R10). -/
abbrev Byte := BitVec 8

/-- A line level: logic-low (numeric 0) or logic-high (numeric 1) (R10). -/
inductive Level where
  | L
  | H
deriving DecidableEq, Repr, Inhabited

/-- The two input lines a level can be read from (10_state.md R40). -/
inductive Line where
  | data
  | aux
deriving DecidableEq, Repr

end Sys2Proof
end

