-- ==== Sys2Proof/Config.lean ====
section
/-! DEFINITION. What an implementation of the block fixes (spec/00_scope.md R6), and the one free value of the
model: the level read on a line whose level the spec leaves unconstrained. -/

namespace Sys2Proof.Config

/-- The parameters of R6. `T_CLK` is the positive rational `tClkNum / tClkDen` microseconds. `PIN_MAP` is read by no
rule and is left out (20_memory.md R70). DESIGN CHOICE (log 3): an implementation's values stand in the record
`State.params`, which no step changes, so that a statement can range over every admissible configuration. -/
structure Params where
  /-- `N_LATCH`: ticks spent in WAIT_LATCH. -/
  nLatch : Nat
  /-- `N_HALF`: ticks spent in each WAIT_PRE and WAIT_POST. -/
  nHalf : Nat
  /-- `T_CLK` in microseconds, numerator. -/
  tClkNum : Nat
  /-- `T_CLK` in microseconds, denominator. -/
  tClkDen : Nat
  /-- `W_T`: width of the delay counter in bits. -/
  wT : Nat
deriving DecidableEq, Repr

/-- The constraints of R6: `T_CLK` positive, `N_LATCH` and `N_HALF` at least 1, `N_LATCH * T_CLK >= 12 µs`,
`N_HALF * T_CLK >= 6 µs`, and `2^W_T > max(N_LATCH, N_HALF)`. -/
abbrev Params.Valid (p : Params) : Prop :=
  0 < p.tClkNum ∧ 0 < p.tClkDen ∧ 1 ≤ p.nLatch ∧ 1 ≤ p.nHalf ∧
  12 * p.tClkDen ≤ p.nLatch * p.tClkNum ∧ 6 * p.tClkDen ≤ p.nHalf * p.tClkNum ∧
  p.nLatch < 2 ^ p.wT ∧ p.nHalf < 2 ^ p.wT

/-- The reference configuration (R6, decision D2): `T_CLK = 1 µs`, `N_LATCH = 12`, `N_HALF = 6`, `W_T = 4`. -/
def reference : Params := { nLatch := 12, nHalf := 6, tClkNum := 1, tClkDen := 1, wT := 4 }

/-- FREE VALUE (log 2). The level read on a line in a tick in which the spec leaves it unconstrained (20_memory.md R67,
70_reset_and_hazards.md R239): one value for each line and each value of the counter `State.draw`. -/
opaque freeLevel : Line → Nat → Level

end Sys2Proof.Config
end

