-- ==== Sys2Proof/Syntax.lean ====
section
/-! DEFINITION. The instructions: one constructor for each row of spec/opcode_table.json (four command rows, sixteen
phase rows), and the two word formats they are encoded in (spec/30_encoding.md R81, R94). -/

namespace Sys2Proof

/-- One thing the block does in one tick: a host command accepted in IDLE (41_acquirer.md R132) or the rule of a phase
(00_scope.md R9). The Boolean of a command is bit `cmd[2]`, the operand `d` (R82); INIT, ACQUIRE and CHANGED do not
examine it (R83). -/
inductive Instr where
  | init (d : Bool)
  | acquire (d : Bool)
  | changed (d : Bool)
  | decode (d : Bool)
  | idle
  | config
  | latchHi
  | waitLatch
  | latchLo
  | auxSample
  | waitPre
  | clkLo
  | dataSample
  | waitPost
  | clkHi
  | store
  | commit
  | reserved13
  | reserved14
  | reserved15
deriving DecidableEq, Repr

/-- The two formats: `CMD`, 3 bits (R81), and `PH`, 4 bits (R94). -/
inductive Format where
  | cmd
  | phase
deriving DecidableEq, Repr

/-- A word of one of the two formats: a value of port `cmd` or of the phase register `PH`. -/
inductive FetchWord where
  | cmd (w : BitVec 3)
  | phase (w : BitVec 4)
deriving DecidableEq, Repr

end Sys2Proof
end

