-- ==== Sys2Proof/WellFormed.lean ====
section
/-! DEFINITION. Which instructions a host that keeps the spec's rules can make the block run. The others, the reserved
ones, decode and run too (30_encoding.md R83, 41_acquirer.md R145); only nobody may rely on issuing them. -/

namespace Sys2Proof

/-- The three reserved command words (`d = 1` with INIT, ACQUIRE or CHANGED): "A host must not issue them." (R83) -/
def Instr.reservedCommand : Instr → Bool
  | .init d => d
  | .acquire d => d
  | .changed d => d
  | .decode _ => false
  | .idle | .config | .latchHi | .waitLatch | .latchLo | .auxSample | .waitPre | .clkLo => false
  | .dataSample | .waitPost | .clkHi | .store | .commit => false
  | .reserved13 | .reserved14 | .reserved15 => false

/-- The three reserved values of `PH`, which no rule ever assigns (R145). -/
def Instr.reservedPhase : Instr → Bool
  | .reserved13 | .reserved14 | .reserved15 => true
  | .init _ | .acquire _ | .changed _ | .decode _ => false
  | .idle | .config | .latchHi | .waitLatch | .latchLo | .auxSample | .waitPre | .clkLo => false
  | .dataSample | .waitPost | .clkHi | .store | .commit => false

/-- Neither a reserved command word nor a reserved phase. -/
def Instr.wellFormed (i : Instr) : Bool := !i.reservedCommand && !i.reservedPhase

end Sys2Proof
end

