-- ==== Sys2Proof/Decode.lean ====
section
/-! DEFINITION. Decoding and encoding: the command word (spec/30_encoding.md R81 to R83, R85) and the phase register
(R94). Every value of either format decodes; what is refused, by name, is a byte with bits outside its format. -/

namespace Sys2Proof

/-- The numbers of the phases (R94). -/
abbrev Ph.idle : BitVec 4 := 0
abbrev Ph.config : BitVec 4 := 1
abbrev Ph.latchHi : BitVec 4 := 2
abbrev Ph.waitLatch : BitVec 4 := 3
abbrev Ph.latchLo : BitVec 4 := 4
abbrev Ph.auxSample : BitVec 4 := 5
abbrev Ph.waitPre : BitVec 4 := 6
abbrev Ph.clkLo : BitVec 4 := 7
abbrev Ph.dataSample : BitVec 4 := 8
abbrev Ph.waitPost : BitVec 4 := 9
abbrev Ph.clkHi : BitVec 4 := 10
abbrev Ph.store : BitVec 4 := 11
abbrev Ph.commit : BitVec 4 := 12

/-- The operation numbers of `cmd[1:0]` (R81). -/
abbrev Op.init : BitVec 2 := 0b00
abbrev Op.acquire : BitVec 2 := 0b01
abbrev Op.changed : BitVec 2 := 0b10
abbrev Op.decode : BitVec 2 := 0b11

/-- Field `op`, bits 1 to 0 of the command word (R81). -/
def cmdOp (w : BitVec 3) : BitVec 2 := w.extractLsb' 0 2

/-- Field `d`, bit 2 of the command word (R81). -/
def cmdD (w : BitVec 3) : Bool := w.getLsbD 2

/-- The four operations in the order of their numbers (R81). -/
def commandRows : Vector (Bool → Instr) 4 := #v[.init, .acquire, .changed, .decode]

/-- The sixteen phases in the order of their numbers (R94). -/
def phaseRows : Vector Instr 16 :=
  #v[.idle, .config, .latchHi, .waitLatch, .latchLo, .auxSample, .waitPre, .clkLo, .dataSample, .waitPost, .clkHi,
    .store, .commit, .reserved13, .reserved14, .reserved15]

/-- All eight values of `cmd` decode to one of the four operations (R83). -/
def decodeCommand (w : BitVec 3) : Instr := commandRows[(cmdOp w).toFin] (cmdD w)

/-- All sixteen values of `PH` name a rule, the last three the reserved one (R94, R145). -/
def decodePhase (w : BitVec 4) : Instr := phaseRows[w.toFin]

/-- The instruction a word stands for: decoding is total (R83). -/
def decodeWord : FetchWord → Instr
  | .cmd w => decodeCommand w
  | .phase w => decodePhase w

/-- The word of a command: `d` above `op` (R81). -/
def commandWord (op : BitVec 2) (d : Bool) : FetchWord := .cmd (BitVec.ofBool d ++ op)

/-- The command word a line of the textual form stands for (R92). -/
def textCommand : String → Option (BitVec 3)
  | "INIT" => some 0b000
  | "ACQUIRE" => some 0b001
  | "CHANGED" => some 0b010
  | "DECODE null" => some 0b011
  | "DECODE rpt" => some 0b111
  | _ => none

/-- The word of an instruction, from the tables of R81 and R94. -/
def encode : Instr → FetchWord
  | .init d => commandWord Op.init d
  | .acquire d => commandWord Op.acquire d
  | .changed d => commandWord Op.changed d
  | .decode d => commandWord Op.decode d
  | .idle => .phase 0
  | .config => .phase 1
  | .latchHi => .phase 2
  | .waitLatch => .phase 3
  | .latchLo => .phase 4
  | .auxSample => .phase 5
  | .waitPre => .phase 6
  | .clkLo => .phase 7
  | .dataSample => .phase 8
  | .waitPost => .phase 9
  | .clkHi => .phase 10
  | .store => .phase 11
  | .commit => .phase 12
  | .reserved13 => .phase 13
  | .reserved14 => .phase 14
  | .reserved15 => .phase 15

/-- The format of a word. -/
def FetchWord.format : FetchWord → Format
  | .cmd _ => .cmd
  | .phase _ => .phase

/-- A word laid out as one byte, its bit 0 the byte's bit 0 and the bits above it 0. -/
def FetchWord.toByte : FetchWord → Byte
  | .cmd w => w.setWidth 8
  | .phase w => w.setWidth 8

/-- Why bytes are not an instruction. -/
inductive DecodeError where
  /-- There is no byte. -/
  | noByte
  /-- The byte has a bit set above the format's width (3 bits for `CMD`, 4 for `PH`). -/
  | strayBits
deriving DecidableEq, Repr

/-- The word of a format that a byte holds, if the bits above the format's width are 0. -/
def wordOfByte (f : Format) (b : Byte) : Except DecodeError FetchWord :=
  match f with
  | .cmd => if b.extractLsb' 3 5 = 0 then .ok (.cmd (b.setWidth 3)) else .error .strayBits
  | .phase => if b.extractLsb' 4 4 = 0 then .ok (.phase (b.setWidth 4)) else .error .strayBits

/-- Decoding from bytes, total: the instruction and the bytes after it, or why there is none. -/
def decodeBytes (f : Format) (bytes : List Byte) : Except DecodeError (Instr × List Byte) :=
  match bytes with
  | [] => .error .noByte
  | b :: rest =>
    match wordOfByte f b with
    | .ok w => .ok (decodeWord w, rest)
    | .error e => .error e

/-- Encoding to the one byte `decodeBytes` reads back. -/
def encodeByte (i : Instr) : Byte := (encode i).toByte

/-- Which format a word numbered as spec/opcode_table.json numbers it is in. The table numbers both formats from bit 0,
so a width of 3 bits or fewer is a command and a width of 4 a phase. DESIGN CHOICE (log 9): where only a whole byte
is told, the values 0 to 3 are read as the four commands and every other value as a phase. -/
def tableFormat (nbits w : Nat) : Format :=
  if nbits ≤ 3 then .cmd else if nbits = 4 then .phase else if w < 4 then .cmd else .phase

/-- The instruction this decoder reads from a word of spec/opcode_table.json laid out as one byte. -/
def decodeTableWord (nbits w : Nat) : Option Instr :=
  if w < 256 then
    match decodeBytes (tableFormat nbits w) [BitVec.ofNat 8 w] with
    | .ok (i, _) => some i
    | .error _ => none
  else none

end Sys2Proof
end

