-- ==== Sys2Proof/Machine/State.lean ====
section
/-! DEFINITION. The state of the block (spec/10_state.md R20 and its rules), the answers of the outside world that one
step reads, and the reset state (R38). -/

namespace Sys2Proof.Machine

open Sys2Proof.Config (Params)

/-- RawSample: exactly three bytes (R21). -/
structure RawSample where
  b0 : Byte
  b1 : Byte
  b2 : Byte
deriving DecidableEq, Repr

/-- ControllerMode, derived and never stored (R25). The two names are the outputs of the mode function, not claims about
the attached device (43_mode_detector.md R183, 90_conflicts.md C2). -/
inductive Mode where
  | nes
  | snes
deriving DecidableEq, Repr

/-- ButtonReport, the sum type of R26. -/
inductive Report where
  | nes (mask raw0 raw1 : Byte)
  | snes (mask : BitVec 16) (raw0 raw1 raw2 : Byte)
deriving DecidableEq, Repr

/-- What the environment does with an input line during one tick (20_memory.md R66, R67). -/
inductive LineDrive where
  /-- Something outside drives the line at this level throughout the tick. -/
  | driven (l : Level)
  /-- Nothing outside drives the line: it shows its pull-up, where that is on (R67). -/
  | undriven
  /-- The level changes inside the tick (70_reset_and_hazards.md R239), or nothing is said of it. -/
  | unconstrained
deriving DecidableEq, Repr

/-- The levels of the block's input ports in one tick (R40, 00_scope.md R9). -/
structure TickInput where
  rst : Bool
  cmdValid : Bool
  cmd : BitVec 3
  data : LineDrive
  aux : LineDrive
deriving DecidableEq, Repr

/-- A tick in which the host asks for nothing and nothing is said of the two lines. -/
def TickInput.quiet : TickInput :=
  { rst := false, cmdValid := false, cmd := 0, data := .unconstrained, aux := .unconstrained }

/-- Every register of R20, and three fields that are the model's own: the parameters (R6), the input ports' values in
this tick and the ticks after it, and the counter of the free values. -/
structure State where
  /-- `LR`, LastRead (R22). -/
  lr : RawSample
  /-- `LP`, LastReported (R23). -/
  lp : RawSample
  /-- `RPT` (R26). -/
  rpt : Report
  /-- `RPT_VALID` (R27). -/
  rptValid : Bool
  /-- `RET` (R28). -/
  ret : Byte
  /-- `ACC` (R29). -/
  acc : Byte
  /-- `S0` (R29). -/
  s0 : Byte
  /-- `S1` (R29). -/
  s1 : Byte
  /-- `AUXS`, the raw level (R29). -/
  auxs : Level
  /-- `PH` (R30). -/
  ph : BitVec 4
  /-- `BYTE` (R31). -/
  byte : BitVec 1
  /-- `BIT` (R31). -/
  bit : BitVec 3
  /-- `T` (R32). A count; every write of it is reduced to its width `W_T` (log 4). -/
  t : Nat
  /-- `LATCH`, the level register (R33). -/
  latch : Level
  /-- `CLOCK`, the level register (R33). -/
  clock : Level
  /-- `CFG` (R34). -/
  cfg : BitVec 4
  /-- MODEL'S OWN (log 3). The parameters of R6; no step changes them. -/
  params : Params
  /-- MODEL'S OWN (log 1). The input ports in this tick (the head) and in the ticks after it. -/
  inputs : List TickInput
  /-- MODEL'S OWN (log 2). The counter of the free levels; it advances by one each tick. -/
  draw : Nat
deriving DecidableEq, Repr

/-- The machine never stops with a fault: "The set of exception causes is empty." (60_exceptions.md R210) -/
inductive Fault where
deriving DecidableEq, Repr

/-- Why a step is refused. -/
inductive Refusal where
  /-- Raised by an arm of `exec` whose instruction has no meaning yet; no arm raises it. Safe. -/
  | notModelled (mnemonic : String)
  /-- Raised by `step`, in every tick and before anything else, where `State.params` breaks a constraint of
  00_scope.md R6: the configuration is refused (93_implementation_defined.md U22, 70_reset_and_hazards.md R235; log 4).
  No meaning raises it. Safe: no claim is made of a block the spec does not admit. -/
  | inadmissibleParameters
deriving DecidableEq, Repr

/-- The reset state of a block with the given parameters: every register at the value of R38. -/
def State.resetWith (p : Params) : State :=
  { lr := { b0 := 0, b1 := 0, b2 := 0 }
    lp := { b0 := 0, b1 := 0, b2 := 0 }
    rpt := .nes 0 0 0
    rptValid := false
    ret := 0
    acc := 0
    s0 := 0
    s1 := 0
    auxs := .L
    ph := Ph.idle
    byte := 0
    bit := 0
    t := 0
    latch := .L
    clock := .H
    cfg := 0
    params := p
    inputs := []
    draw := 0 }

/-- The machine right after reset, in the reference configuration (log 3). -/
def State.reset : State := State.resetWith Config.reference

end Sys2Proof.Machine
end

