-- ==== Sys2Proof/Machine/Ops.lean ====
section
/-! DEFINITION. The named writes of the registers, the shared operations of the sequencer, reset, and what selects the
rule of a tick. A rule reads the values at the start of the tick and its writes take effect together (00_scope.md R9):
a meaning computes every value from its argument and writes it with these. -/

namespace Sys2Proof.Machine.State

/-- The input ports in this tick. -/
def port (s : State) : TickInput := s.inputs.headD TickInput.quiet

/-- The input ports `n` ticks from now. -/
def portAt (s : State) (n : Nat) : TickInput := (s.inputs.drop n).headD TickInput.quiet

/-- `s` with other input ports in this tick. -/
def withPort (s : State) (i : TickInput) : State := { s with inputs := i :: s.inputs.tail }

/-- `PH <- p` (00_scope.md R11). -/
def goto (s : State) (p : BitVec 4) : State := { s with ph := p }

/-- `T <- n`, held in `W_T` bits (R32). -/
def writeT (s : State) (n : Nat) : State := { s with t := n % 2 ^ s.params.wT }

/-- `LATCH <- l` (R33). -/
def writeLatch (s : State) (l : Level) : State := { s with latch := l }

/-- `CLOCK <- l` (R33). -/
def writeClock (s : State) (l : Level) : State := { s with clock := l }

/-- `CFG <- v`, its four bits together (R34). -/
def writeCfg (s : State) (v : BitVec 4) : State := { s with cfg := v }

/-- `LR <- r`, the three bytes together (20_memory.md R64). -/
def writeLr (s : State) (r : RawSample) : State := { s with lr := r }

/-- `LP <- r`, the three bytes together (20_memory.md R64). -/
def writeLp (s : State) (r : RawSample) : State := { s with lp := r }

/-- `RPT <- r; RPT_VALID <- 1` (R26, R27). -/
def writeRpt (s : State) (r : Report) : State := { s with rpt := r, rptValid := true }

/-- `RET <- v` (R28). -/
def writeRet (s : State) (v : Byte) : State := { s with ret := v }

/-- `ACC <- v` (R29). -/
def writeAcc (s : State) (v : Byte) : State := { s with acc := v }

/-- `S0 <- v` (R29). -/
def writeS0 (s : State) (v : Byte) : State := { s with s0 := v }

/-- `S1 <- v` (R29). -/
def writeS1 (s : State) (v : Byte) : State := { s with s1 := v }

/-- `AUXS <- l` (R29). -/
def writeAuxs (s : State) (l : Level) : State := { s with auxs := l }

/-- `BYTE <- v` (R31). -/
def writeByte (s : State) (v : BitVec 1) : State := { s with byte := v }

/-- `BIT <- v` (R31). -/
def writeBit (s : State) (v : BitVec 3) : State := { s with bit := v }

/-- The wait rule shared by the three wait phases (41_acquirer.md R134). -/
def waitTick (s : State) (succ : BitVec 4) : State :=
  if s.t > 1 then s.writeT (s.t - 1) else s.goto succ

/-- Load the delay counter for `N_HALF` ticks of the wait phase `p` and go there (R137, R140, R142, R143). -/
def enterHalfWait (s : State) (p : BitVec 4) : State := (s.writeT s.params.nHalf).goto p

/-- The lines back at their idle levels, latch low and clock high (R33). -/
def idleLevels (s : State) : State := (s.writeLatch .L).writeClock .H

/-- A reserved phase: idle levels, then IDLE, and nothing else (41_acquirer.md R145). -/
def recover (s : State) : State := s.idleLevels.goto Ph.idle

/-- The tick is over: the next tick's inputs stand at the ports, and its free levels are fresh. -/
def endTick (s : State) : State := { s with inputs := s.inputs.tail, draw := s.draw + 1 }

/-- A tick with `rst == 1`: every register takes its reset value (70_reset_and_hazards.md R230). The parameters, the
inputs still to come and the counter of the free values are not registers. -/
def resetTick (s : State) : State :=
  { State.resetWith s.params with inputs := s.inputs, draw := s.draw }.endTick

/-- What runs in a tick with `rst == 0`: a command presented in IDLE is accepted (30_encoding.md R80); in every other
case the rule of the phase runs and `cmd` is ignored (R84, 60_exceptions.md R216 items 2 to 4). -/
def fetchWord (s : State) : FetchWord :=
  if s.ph = Ph.idle ∧ s.port.cmdValid = true then .cmd s.port.cmd else .phase s.ph

end Sys2Proof.Machine.State
end

