-- ==== Sys2Proof/Machine/Operands.lean ====
section
/-! DEFINITION. What the rules compute from their inputs: the level read on a line, the inversion at sample time, the
shift, the bytes of a sample, and the two report forms with their 41-bit layout. -/

namespace Sys2Proof.Machine

/-- The bits of `CFG` (10_state.md R34). -/
def State.latchOe (s : State) : Bool := s.cfg.getLsbD 0
def State.clockOe (s : State) : Bool := s.cfg.getLsbD 1
def State.dataPue (s : State) : Bool := s.cfg.getLsbD 2
def State.auxPue (s : State) : Bool := s.cfg.getLsbD 3

/-- The level of an input line in one tick: the driven level; undriven, 1 with the pull-up on and unconstrained with it
off (20_memory.md R67); unconstrained where the environment leaves it so (70_reset_and_hazards.md R239). -/
def lineLevel (line : Line) (pullUp : Bool) (drive : LineDrive) (draw : Nat) : Level :=
  match drive with
  | .driven l => l
  | .undriven => if pullUp then .H else Config.freeLevel line draw
  | .unconstrained => Config.freeLevel line draw

/-- `PinRead(DATA)` in this tick (20_memory.md R66). -/
def State.pinReadData (s : State) : Level := lineLevel .data s.dataPue s.port.data s.draw

/-- `PinRead(AUX)` in this tick (20_memory.md R66). -/
def State.pinReadAux (s : State) : Level := lineLevel .aux s.auxPue s.port.aux s.draw

/-- `~l`: the stored bit is 1 exactly when the line read L, the pressed condition (41_acquirer.md R147). -/
def inverted : Level → Bool
  | .L => true
  | .H => false

/-- The 8-bit value `(acc[6:0], b)`: the old bit 7 is discarded (41_acquirer.md R140). -/
def shiftIn (acc : Byte) (b : Bool) : Byte := (acc.extractLsb' 0 7).concat b

/-- Byte 2 of a sample: seven zeros, then the complement of the AUX level (41_acquirer.md R144). -/
def auxByte (a : Level) : Byte := (0 : BitVec 7).concat (inverted a)

/-- The SNES mask: byte 1 in the high half, byte 0 in the low half (44_button_decoder.md R192). -/
def snesMask (b0 b1 : Byte) : BitVec 16 := b1 ++ b0

/-- The mode function: SNES if and only if the low nibble is all ones (43_mode_detector.md R180). -/
def modeOf (b1 : Byte) : Mode := if b1.extractLsb' 0 4 = 0xF then .snes else .nes

/-- The report of a sample (44_button_decoder.md R190 to R192). -/
def reportOf (r : RawSample) : Report :=
  match modeOf r.b1 with
  | .snes => .snes (snesMask r.b0 r.b1) r.b0 r.b1 r.b2
  | .nes => .nes r.b0 r.b0 r.b2

/-- The discriminant of a report (30_encoding.md R87, R88). -/
def Report.kind : Report → Mode
  | .nes .. => .nes
  | .snes .. => .snes

/-- NES is 0 and SNES is 1 (30_encoding.md R87). -/
def Mode.toBit : Mode → BitVec 1
  | .nes => 0
  | .snes => 1

/-- Port `rpt_mask` (30_encoding.md R88). -/
def Report.mask16 : Report → BitVec 16
  | .nes m _ _ => (0 : Byte) ++ m
  | .snes m _ _ _ => m

/-- Port `rpt_raw0` (30_encoding.md R88). -/
def Report.raw0 : Report → Byte
  | .nes _ r0 _ => r0
  | .snes _ r0 _ _ => r0

/-- Port `rpt_raw1` (30_encoding.md R88). -/
def Report.raw1 : Report → Byte
  | .nes _ _ r1 => r1
  | .snes _ _ r1 _ => r1

/-- Port `rpt_raw2` (30_encoding.md R88). -/
def Report.raw2 : Report → Byte
  | .nes .. => 0
  | .snes _ _ _ r2 => r2

/-- `RPT` as 41 bits: kind, mask, raw0, raw1, raw2 from bit 40 down (30_encoding.md R88). -/
def Report.flatten (r : Report) : BitVec 41 := r.kind.toBit ++ r.mask16 ++ r.raw0 ++ r.raw1 ++ r.raw2

end Sys2Proof.Machine
end

