-- ==== Sys2Proof/Machine/Flags.lean ====
section
/-! DEFINITION. The status values, none of them stored but `RPT_VALID` (spec/10_state.md R35), and the output ports
(R40), all functions of the registers at the start of the tick. -/

namespace Sys2Proof.Machine

/-- `busy = (PH != IDLE)`. -/
def State.busy (s : State) : Bool := s.ph != Ph.idle

/-- `changed`: the byte-exact comparison of LastRead with LastReported (42_change_detector.md R171). -/
def State.changed (s : State) : Bool :=
  (s.lr.b0 != s.lp.b0) || (s.lr.b1 != s.lp.b1) || (s.lr.b2 != s.lp.b2)

/-- `mode`: the mode function of LR[1] (43_mode_detector.md R181). -/
def State.mode (s : State) : Mode := modeOf s.lr.b1

/-- `irq_inhibit = (PH == CONFIG)` (60_exceptions.md R215). -/
def State.irqInhibit (s : State) : Bool := s.ph == Ph.config

/-- `zext_8` of a 1-bit value (30_encoding.md R86). -/
def zext8 (b : Bool) : Byte := (BitVec.ofBool b).setWidth 8

/-- A tri-state output: the level while its output enable is 1, `none` (not driven by the block) otherwise
(20_memory.md R65). -/
def lineDriven (enable : Bool) (l : Level) : Option Level := if enable then some l else none

/-- The output ports of R40. -/
structure Ports where
  busy : Bool
  ret : Byte
  changed : Bool
  mode : BitVec 1
  rptKind : BitVec 1
  rptMask : BitVec 16
  rptRaw0 : Byte
  rptRaw1 : Byte
  rptRaw2 : Byte
  rptValid : Bool
  irqInhibit : Bool
  latchLine : Option Level
  clockLine : Option Level
  dataPue : Bool
  auxPue : Bool
deriving DecidableEq, Repr

/-- What the block shows at its output ports in this tick (R40). -/
def State.ports (s : State) : Ports :=
  { busy := s.busy
    ret := s.ret
    changed := s.changed
    mode := s.mode.toBit
    rptKind := s.rpt.kind.toBit
    rptMask := s.rpt.mask16
    rptRaw0 := s.rpt.raw0
    rptRaw1 := s.rpt.raw1
    rptRaw2 := s.rpt.raw2
    rptValid := s.rptValid
    irqInhibit := s.irqInhibit
    latchLine := lineDriven s.latchOe s.latch
    clockLine := lineDriven s.clockOe s.clock
    dataPue := s.dataPue
    auxPue := s.auxPue }

/-- The report a host may rely on: none while `RPT_VALID == 0` (10_state.md R27). -/
def State.hostReport (s : State) : Option Report := if s.rptValid then some s.rpt else none

end Sys2Proof.Machine
end

