-- ==== Sys2Proof/Machine/Acquirer.lean ====
section
/-! DEFINITION. The Acquirer (spec/41_acquirer.md): the command ACQUIRE and the phases of the latch/clock sequencer. -/

namespace Sys2Proof.Machine

/-- ACQUIRE accepted: the sequence starts at LATCH_HI (R130, R132). `d` is not examined (30_encoding.md R83). -/
def execAcquire (_d : Bool) (s : State) : Host.Outcome State Fault Refusal :=
  .next (s.goto Ph.latchHi)

/-- IDLE with no command: nothing changes (R132). The branch of R132 that accepts a command is `State.fetchWord`: that
tick runs the command in place of this rule (60_exceptions.md R216 items 3 and 4). -/
def execIdle (s : State) : Host.Outcome State Fault Refusal := .next s

/-- LATCH_HI (R133). -/
def execLatchHi (s : State) : Host.Outcome State Fault Refusal :=
  .next (((s.writeLatch .H).writeT s.params.nLatch).goto Ph.waitLatch)

/-- WAIT_LATCH (R135). -/
def execWaitLatch (s : State) : Host.Outcome State Fault Refusal := .next (s.waitTick Ph.latchLo)

/-- LATCH_LO (R136). -/
def execLatchLo (s : State) : Host.Outcome State Fault Refusal :=
  .next ((s.writeLatch .L).goto Ph.auxSample)

/-- AUX_SAMPLE (R137): the level is stored raw. -/
def execAuxSample (s : State) : Host.Outcome State Fault Refusal :=
  .next ((((s.writeAuxs s.pinReadAux).writeByte 0).writeBit 0).enterHalfWait Ph.waitPre)

/-- WAIT_PRE (R138). -/
def execWaitPre (s : State) : Host.Outcome State Fault Refusal := .next (s.waitTick Ph.clkLo)

/-- CLK_LO (R139). -/
def execClkLo (s : State) : Host.Outcome State Fault Refusal :=
  .next ((s.writeClock .L).goto Ph.dataSample)

/-- DATA_SAMPLE (R140): the complement of the level enters `ACC` at bit 0. -/
def execDataSample (s : State) : Host.Outcome State Fault Refusal :=
  .next ((s.writeAcc (shiftIn s.acc (inverted s.pinReadData))).enterHalfWait Ph.waitPost)

/-- WAIT_POST (R141). -/
def execWaitPost (s : State) : Host.Outcome State Fault Refusal := .next (s.waitTick Ph.clkHi)

/-- CLK_HI (R142): the clock rises, and the bit loop goes round or ends. -/
def execClkHi (s : State) : Host.Outcome State Fault Refusal :=
  if s.bit ≠ 7 then .next (((s.writeClock .H).writeBit (s.bit + 1)).enterHalfWait Ph.waitPre)
  else .next ((s.writeClock .H).goto Ph.store)

/-- STORE (R143): the byte loop goes round or ends. -/
def execStore (s : State) : Host.Outcome State Fault Refusal :=
  if s.byte = 0 then .next ((((s.writeS0 s.acc).writeByte 1).writeBit 0).enterHalfWait Ph.waitPre)
  else .next ((s.writeS1 s.acc).goto Ph.commit)

/-- COMMIT (R144): the three bytes reach `LR` together. -/
def execCommit (s : State) : Host.Outcome State Fault Refusal :=
  .next (((s.writeLr { b0 := s.s0, b1 := s.s1, b2 := auxByte s.auxs }).writeRet 0x00).goto Ph.idle)

/-- `PH == 13` (R145). -/
def execReserved13 (s : State) : Host.Outcome State Fault Refusal := .next s.recover

/-- `PH == 14` (R145). -/
def execReserved14 (s : State) : Host.Outcome State Fault Refusal := .next s.recover

/-- `PH == 15` (R145). -/
def execReserved15 (s : State) : Host.Outcome State Fault Refusal := .next s.recover

end Sys2Proof.Machine
end

