-- ==== Sys2Proof/Machine/ButtonDecoder.lean ====
section
/-! DEFINITION. The button decoder (spec/44_button_decoder.md): the command DECODE. -/

namespace Sys2Proof.Machine

/-- DECODE: with a destination (`d = 1`) the report of LastRead and `RPT_VALID`; always `LP <- LR` (R190, R193, R194). -/
def execDecode (d : Bool) (s : State) : Host.Outcome State Fault Refusal :=
  if d then .next ((s.writeRpt (reportOf s.lr)).writeLp s.lr) else .next (s.writeLp s.lr)

end Sys2Proof.Machine
end

