-- ==== Sys2Proof/Machine/ChangeDetector.lean ====
section
/-! DEFINITION. The change detector (spec/42_change_detector.md): the command CHANGED. -/

namespace Sys2Proof.Machine

/-- CHANGED: `RET <- zext_8(changed)`, and nothing else (R170). `d` is not examined (30_encoding.md R83). -/
def execChanged (_d : Bool) (s : State) : Host.Outcome State Fault Refusal :=
  .next (s.writeRet (zext8 s.changed))

end Sys2Proof.Machine
end

