-- ==== Sys2Proof/Machine/Initializer.lean ====
section
/-! DEFINITION. The Initializer (spec/40_initializer.md): the command INIT and the phase CONFIG. -/

namespace Sys2Proof.Machine

/-- INIT accepted: the sequence starts at CONFIG (R110, 41_acquirer.md R132). `d` is not examined (R83). -/
def execInit (_d : Bool) (s : State) : Host.Outcome State Fault Refusal :=
  .next (s.goto Ph.config)

/-- CONFIG: all four pad bits and both idle levels in one tick (R111). -/
def execConfig (s : State) : Host.Outcome State Fault Refusal :=
  .next ((s.writeCfg 0b1111).idleLevels.goto Ph.latchHi)

end Sys2Proof.Machine
end

