-- ==== Sys2Proof/Machine/Dispatch.lean ====
section
/-! DEFINITION. Which meaning each instruction has. -/

namespace Sys2Proof.Machine

def exec (i : Instr) (s : State) : Host.Outcome State Fault Refusal :=
  match i with
  -- the four host commands (spec/30_encoding.md R81)
  | .init d => Sys2Proof.Machine.execInit d s
  | .acquire d => Sys2Proof.Machine.execAcquire d s
  | .changed d => Sys2Proof.Machine.execChanged d s
  | .decode d => Sys2Proof.Machine.execDecode d s
  -- the phases (spec/30_encoding.md R94)
  | .idle => Sys2Proof.Machine.execIdle s
  | .config => Sys2Proof.Machine.execConfig s
  | .latchHi => Sys2Proof.Machine.execLatchHi s
  | .waitLatch => Sys2Proof.Machine.execWaitLatch s
  | .latchLo => Sys2Proof.Machine.execLatchLo s
  | .auxSample => Sys2Proof.Machine.execAuxSample s
  | .waitPre => Sys2Proof.Machine.execWaitPre s
  | .clkLo => Sys2Proof.Machine.execClkLo s
  | .dataSample => Sys2Proof.Machine.execDataSample s
  | .waitPost => Sys2Proof.Machine.execWaitPost s
  | .clkHi => Sys2Proof.Machine.execClkHi s
  | .store => Sys2Proof.Machine.execStore s
  | .commit => Sys2Proof.Machine.execCommit s
  | .reserved13 => Sys2Proof.Machine.execReserved13 s
  | .reserved14 => Sys2Proof.Machine.execReserved14 s
  | .reserved15 => Sys2Proof.Machine.execReserved15 s

end Sys2Proof.Machine
end

