-- ==== Sys2Proof/Machine/Step.lean ====
section
/-! DEFINITION. One tick of the block (spec/00_scope.md R9, spec/60_exceptions.md R216). -/

namespace Sys2Proof.Machine

/-- The tick's end after an instruction: only a next state has one. -/
def afterExec (o : Host.Outcome State Fault Refusal) : Host.Outcome State Fault Refusal :=
  match o with
  | .next s => .next s.endTick
  | .fault f => .fault f
  | .refused r => .refused r

/-- One tick of the block. Reset wins over everything (R216 item 1); otherwise the fetched word is decoded and run. -/
def tick (s : State) : Host.Outcome State Fault Refusal :=
  if s.port.rst then .next s.resetTick
  else afterExec (exec (decodeWord s.fetchWord) s)

/-- One step: a tick, in a configuration 00_scope.md R6 admits. A configuration that breaks a constraint is outside the
spec and is refused (93_implementation_defined.md U22, 70_reset_and_hazards.md R235; log 4). -/
def step (s : State) : Host.Outcome State Fault Refusal :=
  if s.params.Valid then tick s else .refused .inadmissibleParameters

/-- `s` with a word placed where `step` takes its next instruction from: a command word at the port, in IDLE; a phase
number in `PH`. In both cases `rst` is 0 in this tick. -/
def State.placeWord (s : State) (w : FetchWord) : State :=
  match w with
  | .cmd c => (s.goto Ph.idle).withPort { s.port with rst := false, cmdValid := true, cmd := c }
  | .phase p => (s.goto p).withPort { s.port with rst := false, cmdValid := s.port.cmdValid && p != Ph.idle }

/-- `s` with the instruction of spec/opcode_table.json's word `w` placed where the next step runs it (log 9, log 10); `s`
itself where the decoder refuses the word. -/
def State.withFetchWord (s : State) (nbits w : Nat) : State :=
  if w < 256 then
    match wordOfByte (tableFormat nbits w) (BitVec.ofNat 8 w) with
    | .ok word => s.placeWord word
    | .error _ => s
  else s

end Sys2Proof.Machine
end

