-- ==== Sys2Proof/Machine/Operation.lean ====
section
/-! DEFINITION. The operation level (spec/00_scope.md R8): each host command as one atomic transition, given the
environment's 17 levels. The tick level (`step`) refines it (41_acquirer.md R148). -/

namespace Sys2Proof.Machine

/-- Eight bits, the first one most significant (20_memory.md R61). -/
def packByte (x0 x1 x2 x3 x4 x5 x6 x7 : Bool) : Byte := BitVec.ofBoolListBE [x0, x1, x2, x3, x4, x5, x6, x7]

/-- The sample an acquisition takes, `d` in wire order (41_acquirer.md R130). -/
def acquisition (a : Level) (d : Fin 16 → Level) : RawSample :=
  { b0 := packByte (inverted (d 0)) (inverted (d 1)) (inverted (d 2)) (inverted (d 3))
      (inverted (d 4)) (inverted (d 5)) (inverted (d 6)) (inverted (d 7))
    b1 := packByte (inverted (d 8)) (inverted (d 9)) (inverted (d 10)) (inverted (d 11))
      (inverted (d 12)) (inverted (d 13)) (inverted (d 14)) (inverted (d 15))
    b2 := auxByte a }

/-- ACQUIRE(a, d) (41_acquirer.md R130). -/
def opAcquire (a : Level) (d : Fin 16 → Level) (s : State) : State :=
  { s with lr := acquisition a d, ret := 0x00, latch := .L, clock := .H }

/-- INIT(a, d) (40_initializer.md R110). -/
def opInit (a : Level) (d : Fin 16 → Level) (s : State) : State :=
  opAcquire a d { s with cfg := 0b1111, latch := .L, clock := .H }

/-- CHANGED (42_change_detector.md R170). -/
def opChanged (s : State) : State := { s with ret := if s.lr = s.lp then 0x00 else 0x01 }

/-- DECODE(d) (44_button_decoder.md R190). -/
def opDecode (d : Bool) (s : State) : State :=
  let reported := if d then { s with rpt := reportOf s.lr, rptValid := true } else s
  { reported with lp := s.lr }

/-- POLL, a host's polling cycle (30_encoding.md R93); the host evaluates the condition. -/
def opPoll (a : Level) (d : Fin 16 → Level) (s : State) : State :=
  let asked := opChanged (opAcquire a d s)
  if asked.ret ≠ 0x00 then opDecode true asked else asked

end Sys2Proof.Machine
end

