-- ==== Sys2Proof/Machine/Timing.lean ====
section
/-! DEFINITION. The tick schedule of one ACQUIRE in the reference sequencer (spec/41_acquirer.md R149), counted from the
tick in which the command is accepted (tick 0). An INIT is one tick later from LATCH_HI on. -/

namespace Sys2Proof.Machine

open Sys2Proof.Config (Params)

/-- `P`: ticks per bit. -/
def Timing.bitTicks (p : Params) : Nat := 2 * p.nHalf + 3

/-- `B0`: the first tick of bit 0. -/
def Timing.firstBitTick (p : Params) : Nat := p.nLatch + 4

/-- `Bk`: the first tick of bit `k`; one STORE tick lies between bit 7 and bit 8. -/
def Timing.bitTick (p : Params) (k : Nat) : Nat :=
  Timing.firstBitTick p + k * Timing.bitTicks p + (if k ≤ 7 then 0 else 1)

/-- The tick of AUX_SAMPLE. -/
def Timing.auxTick (p : Params) : Nat := p.nLatch + 3

/-- The tick of DATA_SAMPLE of bit `k`. -/
def Timing.dataTick (p : Params) (k : Nat) : Nat := Timing.bitTick p k + p.nHalf + 1

/-- The tick in which the block is in IDLE again with the new sample visible. -/
def Timing.acquireTicks (p : Params) : Nat := p.nLatch + 32 * p.nHalf + 55

/-- The same for INIT, one tick more. -/
def Timing.initTicks (p : Params) : Nat := Timing.acquireTicks p + 1

/-- The phase in tick `r` of a bit's `P` ticks. -/
def Timing.bitPhase (p : Params) (r : Nat) : BitVec 4 :=
  if r < p.nHalf then Ph.waitPre
  else if r = p.nHalf then Ph.clkLo
  else if r = p.nHalf + 1 then Ph.dataSample
  else if r ≤ 2 * p.nHalf + 1 then Ph.waitPost
  else Ph.clkHi

/-- The phase in tick `n` of an ACQUIRE accepted in tick 0: the table of R149. -/
def Timing.phaseAt (p : Params) (n : Nat) : BitVec 4 :=
  let b0 := Timing.firstBitTick p
  let perBit := Timing.bitTicks p
  if n = 0 then Ph.idle
  else if n = 1 then Ph.latchHi
  else if n ≤ p.nLatch + 1 then Ph.waitLatch
  else if n = p.nLatch + 2 then Ph.latchLo
  else if n = p.nLatch + 3 then Ph.auxSample
  else if n < b0 + 8 * perBit then Timing.bitPhase p ((n - b0) % perBit)
  else if n = b0 + 8 * perBit then Ph.store
  else if n < b0 + 16 * perBit + 1 then Timing.bitPhase p ((n - b0 - 1) % perBit)
  else if n = b0 + 16 * perBit + 1 then Ph.store
  else if n = b0 + 16 * perBit + 2 then Ph.commit
  else Ph.idle

/-- The level on AUX `n` ticks from now, while `CFG` has the given value. -/
def State.auxLevelAt (s : State) (cfg : BitVec 4) (n : Nat) : Level :=
  lineLevel .aux (cfg.getLsbD 3) (s.portAt n).aux (s.draw + n)

/-- The level on DATA `n` ticks from now, while `CFG` has the given value. -/
def State.dataLevelAt (s : State) (cfg : BitVec 4) (n : Nat) : Level :=
  lineLevel .data (cfg.getLsbD 2) (s.portAt n).data (s.draw + n)

end Sys2Proof.Machine
end

