-- ==== Sys2Proof/Safety.lean ====
section
/-! DEFINITION. What claims about the block are stated in: runs of ticks, what the host does during one, and the
invariant of the reachable states. -/

namespace Sys2Proof.Machine

/-- `n` ticks, stopping where a step does not answer a next state. -/
def run : Nat → State → Host.Outcome State Fault Refusal
  | 0, s => .next s
  | n + 1, s =>
    match step s with
    | .next t => run n t
    | .fault f => .fault f
    | .refused r => .refused r

/-- No reset in the next `n` ticks. -/
def State.NoReset (s : State) (n : Nat) : Prop := ∀ k, k < n → (s.portAt k).rst = false

/-- The host presents a command word in this tick (spec/30_encoding.md R80). -/
def State.Presents (s : State) (w : BitVec 3) : Prop := s.port.cmdValid = true ∧ s.port.cmd = w

/-- The state is reached from the reset state of an admissible configuration, whatever the outside world does. -/
def Reachable (t : State) : Prop :=
  ∃ (p : Config.Params) (inputs : List TickInput) (draw n : Nat), p.Valid ∧
    run n { State.resetWith p with inputs := inputs, draw := draw } = .next t

/-- The command a word presented in IDLE is, with no reset in this tick: what makes it accepted (30_encoding.md R80). -/
def State.Accepts (s : State) (w : BitVec 3) : Prop :=
  s.port.rst = false ∧ s.ph = Ph.idle ∧ s.Presents w

/-- The wait phases. -/
def isWait (ph : BitVec 4) : Bool := ph == Ph.waitLatch || ph == Ph.waitPre || ph == Ph.waitPost

/-- The count a wait phase is entered with (41_acquirer.md R134). -/
def waitTicks (p : Config.Params) (ph : BitVec 4) : Nat := if ph = Ph.waitLatch then p.nLatch else p.nHalf

/-- Bits 7 to 1 are 0 (10_state.md R24 (c)). -/
def auxOnly (b : Byte) : Bool := b.extractLsb' 1 7 == 0

/-- What a stored report can be (44_button_decoder.md R191, R192). -/
def Report.wellFormed : Report → Bool
  | .nes m r0 r1 => m == r0 && auxOnly r1
  | .snes m r0 r1 r2 => m == r1 ++ r0 && modeOf r1 == .snes && auxOnly r2

/-- The invariant of the reachable states. -/
structure StateInv (s : State) : Prop where
  /-- The configuration is one the spec admits (00_scope.md R6). -/
  params : s.params.Valid
  /-- `PH` holds one of the thirteen phases (10_state.md R30). -/
  phase : s.ph.toNat ≤ 12
  /-- R24 (c), for `LR`. -/
  lrAux : auxOnly s.lr.b2 = true
  /-- R24 (c), for `LP`. -/
  lpAux : auxOnly s.lp.b2 = true
  /-- The latch register is high in WAIT_LATCH and LATCH_LO only; in IDLE this is R39. -/
  latchLevel : s.latch = .H ↔ s.ph = Ph.waitLatch ∨ s.ph = Ph.latchLo
  /-- The clock register is low in DATA_SAMPLE, WAIT_POST and CLK_HI only; in IDLE this is R39. -/
  clockLevel : s.clock = .L ↔ s.ph = Ph.dataSample ∨ s.ph = Ph.waitPost ∨ s.ph = Ph.clkHi
  /-- `T` is held in `W_T` bits (R32). -/
  timerWidth : s.t < 2 ^ s.params.wT
  /-- In a wait phase `T` counts down from its load and "never reaches 0 by decrement" (R32). -/
  timerInWait : isWait s.ph = true → 1 ≤ s.t ∧ s.t ≤ waitTicks s.params s.ph
  /-- The four pad bits are written together (R34). -/
  cfgWhole : s.cfg = 0b0000 ∨ s.cfg = 0b1111
  /-- The only values of `RET` (30_encoding.md R86). -/
  retCode : s.ret = 0x00 ∨ s.ret = 0x01
  /-- `RPT` is a report once `RPT_VALID` is 1, and holds its reset value until then (R26, R27). -/
  report : if s.rptValid then s.rpt.wellFormed = true else s.rpt = .nes 0 0 0

end Sys2Proof.Machine
end

