-- ==== Sys2Proof/Certificates/Slice0/Obligations.lean ====
section
/-! DEFINITION. The statements for the provers. A next state is written out whole, as the start state with the fields
the rule writes: every field not named is unchanged, which is each instruction's frame. -/

open Sys2Proof Sys2Proof.Machine

/-! ### Encoding -/

/-- Decoding a byte gives back the instruction it encodes, with every operand, and whatever decodes re-encodes to the
same byte (30_encoding.md R81 to R83, R94). -/
def Obligations.DecodeInvertsEncodeOnBytes : Prop :=
  (∀ (i : Instr) (rest : List Byte), decodeBytes (encode i).format (encodeByte i :: rest) = .ok (i, rest)) ∧
  (∀ (f : Format) (b : Byte) (rest left : List Byte) (i : Instr), decodeBytes f (b :: rest) = .ok (i, left) →
    left = rest ∧ (encode i).format = f ∧ encodeByte i = b)

/-- A byte is refused exactly when it has a bit above the 3 bits of a command word (R81) or the 4 bits of a phase number
(R94). That words are laid out in bytes is the model's choice (log 9). -/
def Obligations.DecodeRefusesExactlyStrayBits : Prop :=
  (∀ f : Format, decodeBytes f [] = .error .noByte) ∧
  (∀ (b : Byte) (rest : List Byte), decodeBytes .cmd (b :: rest) = .error .strayBits ↔ 8 ≤ b.toNat) ∧
  (∀ (b : Byte) (rest : List Byte), decodeBytes .phase (b :: rest) = .error .strayBits ↔ 16 ≤ b.toNat)

/-- The words of 95_test_vectors.md group E and of R94's table stand for the instructions named there. -/
def Obligations.ListedWordsDecode : Prop :=
  decodeCommand 0b000 = .init false ∧ decodeCommand 0b001 = .acquire false ∧ decodeCommand 0b010 = .changed false ∧
  decodeCommand 0b011 = .decode false ∧ decodeCommand 0b111 = .decode true ∧ decodePhase 0b0000 = .idle ∧
  decodePhase 0b0001 = .config ∧ decodePhase 0b0010 = .latchHi ∧ decodePhase 0b0110 = .waitPre ∧
  decodePhase 0b1000 = .dataSample ∧ decodePhase 0b1100 = .commit ∧ decodePhase 0b1101 = .reserved13

/-- 30_encoding.md R83: every word is one of the four operations, none traps (in a configuration 00_scope.md R6 admits),
and with `op` INIT, ACQUIRE or CHANGED the block does exactly what it does for the word with `d = 0`. -/
def Obligations.ReservedWordsRunAsUnreserved : Prop :=
  (∀ w : BitVec 3, ∃ d, decodeCommand w = .init d ∨ decodeCommand w = .acquire d ∨ decodeCommand w = .changed d ∨
    decodeCommand w = .decode d) ∧
  (∀ s : State, s.params.Valid → ∃ t, step s = .next t) ∧
  (∀ (s t : State) (op : BitVec 2), op ≠ Op.decode → s.Accepts ((1 : BitVec 1) ++ op) → t.Accepts ((0 : BitVec 1) ++ op) →
    t = { s with inputs := t.inputs } → t.inputs.tail = s.inputs.tail → step t = step s)

/-! ### The tick -/

/-- In an admissible configuration (00_scope.md R6) a tick with `rst` low runs the decoded instruction:
the accepted command, or the rule of the phase; then the next
tick's inputs stand at the ports and the counter of the free levels has advanced (log 1, log 2). -/
def Obligations.StepRunsDecodedInstruction : Prop :=
  (∀ (s t : State) (w : BitVec 3), s.params.Valid → s.Accepts w → exec (decodeCommand w) s = .next t →
    step s = .next { t with inputs := t.inputs.tail, draw := t.draw + 1 }) ∧
  (∀ (s t : State), s.params.Valid → s.port.rst = false → s.ph ≠ Ph.idle → exec (decodePhase s.ph) s = .next t →
    step s = .next { t with inputs := t.inputs.tail, draw := t.draw + 1 }) ∧
  (∀ (s t : State), s.params.Valid → s.port.rst = false → s.port.cmdValid = false →
    exec (decodePhase s.ph) s = .next t →
    step s = .next { t with inputs := t.inputs.tail, draw := t.draw + 1 })

/-- A word placed for the next step (log 10) is what that step runs. -/
def Obligations.PlacedWordIsRunNext : Prop :=
  ∀ (s : State) (w : FetchWord), (s.placeWord w).fetchWord = w ∧
    (s.params.Valid → step (s.placeWord w) = afterExec (exec (decodeWord w) (s.placeWord w)))

/-- 60_exceptions.md R210: no state and no input makes the block stop, in any configuration 00_scope.md R6 admits. -/
def Obligations.StepNeverStops : Prop :=
  ∀ s : State, s.params.Valid → ∃ t, step s = .next t

/-- A configuration that breaks a constraint of 00_scope.md R6 is refused in every tick, and no other is; every
instruction still answers a next state there, since only `step` refuses; and a step leaves the configuration alone. That
it is refused is ruling U22 of 93_implementation_defined.md, which the model follows (log 4). -/
def Obligations.InadmissibleConfigurationIsRefused : Prop :=
  (∀ s : State, step s = .refused .inadmissibleParameters ↔ ¬ s.params.Valid) ∧
  (∀ (i : Instr) (s : State), ∃ t, exec i s = .next t) ∧
  (∀ s t : State, step s = .next t → t.params = s.params ∧ t.params.Valid)

/-- 70_reset_and_hazards.md R230: with `rst` high, whatever the phase and the command inputs, every register takes its
reset value. -/
def Obligations.ResetSetsEveryRegister : Prop :=
  ∀ s : State, s.params.Valid → s.port.rst = true → ∃ t, step s = .next t ∧
    t.lr = { b0 := 0x00, b1 := 0x00, b2 := 0x00 } ∧ t.lp = { b0 := 0x00, b1 := 0x00, b2 := 0x00 } ∧
    t.rpt = .nes 0x00 0x00 0x00 ∧ t.rpt.flatten = 0 ∧ t.rptValid = false ∧ t.ret = 0x00 ∧
    t.acc = 0x00 ∧ t.s0 = 0x00 ∧ t.s1 = 0x00 ∧ t.auxs = .L ∧
    t.ph = Ph.idle ∧ t.byte = 0 ∧ t.bit = 0 ∧ t.t = 0 ∧ t.latch = .L ∧ t.clock = .H ∧ t.cfg = 0b0000 ∧
    t.params = s.params

/-- 70_reset_and_hazards.md R231: what host and environment see after a reset, and that it stays so until a command is
accepted. -/
def Obligations.PortsAfterReset : Prop :=
  ∀ (n : Nat) (s t : State), s.port.rst = true → step s = .next t →
    (∀ k, k < n → (t.portAt k).rst = false ∧ (t.portAt k).cmdValid = false) →
    ∃ u, run n t = .next u ∧ u.ports =
      { busy := false, ret := 0x00, changed := false, mode := 0, rptKind := 0, rptMask := 0, rptRaw0 := 0, rptRaw1 := 0,
        rptRaw2 := 0, rptValid := false, irqInhibit := false, latchLine := none, clockLine := none,
        dataPue := false, auxPue := false }

/-- 60_exceptions.md R216: reset, then the running phase, then a presented command, then nothing. -/
def Obligations.PriorityOfSimultaneousEvents : Prop :=
  ∀ s : State, s.params.Valid →
    (s.port.rst = true → step s =
      .next { State.resetWith s.params with inputs := s.inputs.tail, draw := s.draw + 1 }) ∧
    (s.port.rst = false → s.ph ≠ Ph.idle → step s = afterExec (exec (decodePhase s.ph) s)) ∧
    (s.port.rst = false → s.ph = Ph.idle → s.port.cmdValid = true →
      step s = afterExec (exec (decodeCommand s.port.cmd) s)) ∧
    (s.port.rst = false → s.ph = Ph.idle → s.port.cmdValid = false →
      step s = .next { s with inputs := s.inputs.tail, draw := s.draw + 1 })

/-- 30_encoding.md R84: what is presented while busy makes no difference, in this tick or later. -/
def Obligations.CommandWhileBusyIsLost : Prop :=
  ∀ (s : State) (valid : Bool) (word : BitVec 3), s.busy = true →
    step (s.withPort { s.port with cmdValid := valid, cmd := word }) = step s

/-- 20_memory.md R66: the level on DATA matters in DATA_SAMPLE only, the level on AUX in AUX_SAMPLE only. -/
def Obligations.LinesIgnoredOutsideSampleTicks : Prop :=
  ∀ (s : State) (drive : LineDrive),
    (s.ph ≠ Ph.dataSample →
      step (s.withPort { s.port with data := drive }) = step s) ∧
    (s.ph ≠ Ph.auxSample →
      step (s.withPort { s.port with aux := drive }) = step s)

/-! ### The commands -/

/-- 41_acquirer.md R132: what an idle tick does for each operation and for no command. -/
def Obligations.IdleTickAcceptsCommand : Prop :=
  ∀ s : State, s.params.Valid → s.port.rst = false → s.ph = Ph.idle →
    (∀ w, s.Presents w → cmdOp w = 0b00 →
      step s = .next { s with ph := Ph.config, inputs := s.inputs.tail, draw := s.draw + 1 }) ∧
    (∀ w, s.Presents w → cmdOp w = 0b01 →
      step s = .next { s with ph := Ph.latchHi, inputs := s.inputs.tail, draw := s.draw + 1 }) ∧
    (∀ w, s.Presents w → cmdOp w = 0b10 →
      step s = .next { opChanged s with inputs := s.inputs.tail, draw := s.draw + 1 }) ∧
    (∀ w, s.Presents w → cmdOp w = 0b11 →
      step s = .next { opDecode (w.getLsbD 2) s with inputs := s.inputs.tail, draw := s.draw + 1 }) ∧
    (s.port.cmdValid = false → step s = .next { s with inputs := s.inputs.tail, draw := s.draw + 1 })

/-- INIT starts its sequence at CONFIG and ACQUIRE at LATCH_HI, and the accepting tick changes nothing else (41_acquirer.md
R132). What the whole sequences do is `InitRefinesOperation` and `AcquireRefinesOperation`. -/
def Obligations.InitAndAcquireStartSequence : Prop :=
  ∀ (d : Bool) (s : State),
    exec (.init d) s = .next { s with ph := 1 } ∧ exec (.acquire d) s = .next { s with ph := 2 }

/-- 42_change_detector.md R170: `RET` is 0x01 if any byte differs and 0x00 if none does, and nothing else changes; as an
instruction, and as a command word accepted in IDLE. -/
def Obligations.ChangedReturnsComparison : Prop :=
  (∀ (d : Bool) (s : State), exec (.changed d) s = .next { s with ret := if s.lr = s.lp then 0x00 else 0x01 }) ∧
  (∀ (s : State) (w : BitVec 3), s.params.Valid → s.Accepts w → w = 0b010 ∨ w = 0b110 →
    step s = .next { s with ret := if s.lr = s.lp then 0x00 else 0x01, inputs := s.inputs.tail, draw := s.draw + 1 })

/-- 42_change_detector.md R172: after any number of ticks with nothing but CHANGED or no command, a CHANGED gives the
value the port `changed` shows in the tick it is accepted, which is the value it showed at the start. -/
def Obligations.RepeatedChangedAgrees : Prop :=
  ∀ (n : Nat) (s : State), s.params.Valid → s.ph = Ph.idle →
    (∀ k, k ≤ n → (s.portAt k).rst = false) →
    (∀ k, k < n → (s.portAt k).cmdValid = false ∨ cmdOp (s.portAt k).cmd = Op.changed) →
    (s.portAt n).cmdValid = true → cmdOp (s.portAt n).cmd = Op.changed →
    ∃ t u, run n s = .next t ∧ step t = .next u ∧ u.ret = (if t.ports.changed then 0x01 else 0x00) ∧
      t.ports.changed = s.ports.changed

/-- 44_button_decoder.md R191, R192: the report of `DECODE rpt` in each mode, with `RPT_VALID` and the new baseline. -/
def Obligations.DecodeWithDestinationWritesReport : Prop :=
  ∀ s : State,
    (s.lr.b1.toNat % 16 = 15 → exec (.decode true) s =
      .next { s with
        rpt := .snes (BitVec.ofNat 16 (s.lr.b1.toNat * 256 + s.lr.b0.toNat)) s.lr.b0 s.lr.b1 s.lr.b2
        rptValid := true, lp := s.lr }) ∧
    (s.lr.b1.toNat % 16 ≠ 15 → exec (.decode true) s =
      .next { s with rpt := .nes s.lr.b0 s.lr.b0 s.lr.b2, rptValid := true, lp := s.lr })

/-- 44_button_decoder.md R193: with a null destination only `LP` is written. -/
def Obligations.DecodeNullOnlyMovesBaseline : Prop :=
  ∀ s : State, exec (.decode false) s = .next { s with lp := s.lr }

/-- 44_button_decoder.md R194: every DECODE copies all three bytes, a report written in the same tick describes the
same sample, and with `rst` low nothing but an accepted DECODE changes `LP`. -/
def Obligations.DecodeAlwaysCopiesBaseline : Prop :=
  (∀ (d : Bool) (s : State), ∃ t, exec (.decode d) s = .next t ∧ t.lp = s.lr ∧ t.lr = s.lr ∧
    (d = true → t.rpt = reportOf t.lp)) ∧
  (∀ s t : State, s.port.rst = false → step s = .next t → t.lp ≠ s.lp →
    ∃ w, s.Accepts w ∧ cmdOp w = Op.decode ∧ t.lp = s.lr)

/-- 44_button_decoder.md R196: a DECODE clears `changed`, only a COMMIT of another sample sets it again, and a second
DECODE changes nothing. -/
def Obligations.DecodeClearsChangedUntilCommit : Prop :=
  (∀ (s : State) (w : BitVec 3), s.params.Valid → s.Accepts w → cmdOp w = Op.decode →
    ∃ t, step s = .next t ∧ t.changed = false) ∧
  (∀ s t : State, step s = .next t → s.changed = false → t.changed = true →
    s.ph = Ph.commit ∧ s.port.rst = false ∧ t.lr ≠ s.lp) ∧
  (∀ (d e : Bool) (s t u : State), exec (.decode d) s = .next t → exec (.decode e) t = .next u →
    u.lp = t.lp ∧ (d = true → e = true → u = t))

/-- 42_change_detector.md R173, the four properties in the form the rules give, at the operation level. -/
def Obligations.ComparatorProperties : Prop :=
  (∀ (a a' : Level) (d d' : Fin 16 → Level) (e : Bool) (s : State), acquisition a d = acquisition a' d' →
    (opChanged (opAcquire a' d' (opDecode e (opAcquire a d s)))).ret = 0x00 ∧
    (opChanged (opAcquire a' d' (opChanged (opAcquire a d s)))).ret = (opChanged (opAcquire a d s)).ret) ∧
  (∀ (a : Level) (d : Fin 16 → Level) (s : State),
    (acquisition a d ≠ s.lp → ∀ n : Nat, (opChanged^[n + 1] (opAcquire a d s)).ret = 0x01) ∧
    (∀ (a' : Level) (d' : Fin 16 → Level), acquisition a' d' = s.lp →
      (opChanged (opAcquire a' d' (opAcquire a d s))).ret = 0x00)) ∧
  (∀ (e : Bool) (s : State), (opChanged (opDecode e s)).ret = 0x00) ∧
  (∀ (a : Level) (d : Fin 16 → Level) (e : Bool) (s : State),
    (opChanged (opAcquire a d (opDecode e (opAcquire a d s)))).ret = 0x00)

/-- 30_encoding.md R93: after a polling cycle the baseline is the sample just taken, and a report was written exactly
when that sample differs from the old baseline. The host's report as an option is the model's choice (log 11). -/
def Obligations.PollConsumesChange : Prop :=
  ∀ (a : Level) (d : Fin 16 → Level) (s : State),
    (opPoll a d s).lp = acquisition a d ∧ (opPoll a d s).lr = acquisition a d ∧
    (acquisition a d ≠ s.lp → (opPoll a d s).ret = 0x01 ∧ (opPoll a d s).hostReport = some (reportOf (acquisition a d))) ∧
    (acquisition a d = s.lp → (opPoll a d s).ret = 0x00 ∧ (opPoll a d s).hostReport = s.hostReport)

/-! ### Samples, mode and reports -/

/-- 20_memory.md R61 with 41_acquirer.md R147: after an ACQUIRE DATA sample `k` is bit `7 - k mod 8` of `LR[k / 8]`, 1
exactly when the line read L; and byte 2 is 0x01 when AUX read L and 0x00 when it read H (30_encoding.md R91). -/
def Obligations.SampleBitsAreMsbFirstInverted : Prop :=
  ∀ (s : State) (a : Level) (d : Fin 16 → Level),
    (∀ k : Fin 16, k.val / 8 = 0 → ((opAcquire a d s).lr.b0.getLsbD (7 - k.val % 8) = true ↔ d k = .L)) ∧
    (∀ k : Fin 16, k.val / 8 = 1 → ((opAcquire a d s).lr.b1.getLsbD (7 - k.val % 8) = true ↔ d k = .L)) ∧
    (opAcquire a d s).lr.b2 = if a = .L then 0x01 else 0x00

/-- 43_mode_detector.md R183: the mode that each pattern of DATA levels at samples 12 to 15 gives. -/
def Obligations.ModeOfLinePatterns : Prop :=
  ∀ (a : Level) (d : Fin 16 → Level),
    (d 12 = .H ∧ d 13 = .H ∧ d 14 = .H ∧ d 15 = .H →
      (acquisition a d).b1 &&& 0x0F = 0x00 ∧ modeOf (acquisition a d).b1 = .nes) ∧
    (d 12 = .L ∧ d 13 = .L ∧ d 14 = .L ∧ d 15 = .L →
      (acquisition a d).b1 &&& 0x0F = 0x0F ∧ modeOf (acquisition a d).b1 = .snes) ∧
    (d 12 = .H ∨ d 13 = .H ∨ d 14 = .H ∨ d 15 = .H →
      (acquisition a d).b1 &&& 0x0F ≠ 0x0F ∧ modeOf (acquisition a d).b1 = .nes)

/-- 43_mode_detector.md R180: SNES exactly when the low nibble of byte 1 is 0xF, for the port and for the report kind of
every DECODE with a destination, whatever else the state holds. -/
def Obligations.ModeIsLowNibbleOfByteOne : Prop :=
  ∀ s : State, (s.ports.mode = 1 ↔ s.lr.b1 &&& 0x0F = 0x0F) ∧ (s.ports.mode = 0 ↔ s.lr.b1 &&& 0x0F ≠ 0x0F) ∧
    ∃ t, exec (.decode true) s = .next t ∧ (t.ports.rptKind = 1 ↔ s.lr.b1 &&& 0x0F = 0x0F)

/-- 30_encoding.md R88: the 41 bits of a report in both modes, and the five ports that show them. -/
def Obligations.ReportLayout : Prop :=
  (∀ s : State, s.ports.rptKind = s.rpt.flatten.extractLsb' 40 1 ∧ s.ports.rptMask = s.rpt.flatten.extractLsb' 24 16 ∧
    s.ports.rptRaw0 = s.rpt.flatten.extractLsb' 16 8 ∧ s.ports.rptRaw1 = s.rpt.flatten.extractLsb' 8 8 ∧
    s.ports.rptRaw2 = s.rpt.flatten.extractLsb' 0 8) ∧
  ∀ r : RawSample,
    (modeOf r.b1 = .nes →
      (reportOf r).flatten.extractLsb' 40 1 = 0 ∧ (reportOf r).flatten.extractLsb' 32 8 = 0x00 ∧
      (reportOf r).flatten.extractLsb' 24 8 = r.b0 ∧ (reportOf r).flatten.extractLsb' 16 8 = r.b0 ∧
      (reportOf r).flatten.extractLsb' 8 8 = r.b2 ∧ (reportOf r).flatten.extractLsb' 0 8 = 0x00) ∧
    (modeOf r.b1 = .snes →
      (reportOf r).flatten.extractLsb' 40 1 = 1 ∧ (reportOf r).flatten.extractLsb' 32 8 = r.b1 ∧
      (reportOf r).flatten.extractLsb' 24 8 = r.b0 ∧ (reportOf r).flatten.extractLsb' 16 8 = r.b0 ∧
      (reportOf r).flatten.extractLsb' 8 8 = r.b1 ∧ (reportOf r).flatten.extractLsb' 0 8 = r.b2)

/-- 30_encoding.md R96: bit by bit, which sample a bit of the SNES mask is, and that bits 11 to 8 are always 1; and the
NES mask is byte 0. -/
def Obligations.SnesMaskBits : Prop :=
  ∀ (a : Level) (d : Fin 16 → Level),
    (modeOf (acquisition a d).b1 = .snes →
      (∀ k : Fin 16, ((reportOf (acquisition a d)).mask16.getLsbD (if k.val < 8 then 7 - k.val else 23 - k.val) = true ↔
        d k = .L)) ∧
      (∀ j, 8 ≤ j → j ≤ 11 → (reportOf (acquisition a d)).mask16.getLsbD j = true)) ∧
    (modeOf (acquisition a d).b1 = .nes →
      (reportOf (acquisition a d)).mask16.extractLsb' 0 8 = (acquisition a d).b0)

/-- 44_button_decoder.md R198: the auxiliary button is in no mask; it is the last retained raw byte. -/
def Obligations.AuxiliaryButtonInNoMask : Prop :=
  (∀ (r : RawSample) (b2 : Byte), (reportOf { r with b2 := b2 }).mask16 = (reportOf r).mask16) ∧
  (∀ (a : Level) (d : Fin 16 → Level),
    (modeOf (acquisition a d).b1 = .nes → (reportOf (acquisition a d)).raw1 = if a = .L then 0x01 else 0x00) ∧
    (modeOf (acquisition a d).b1 = .snes → (reportOf (acquisition a d)).raw2 = if a = .L then 0x01 else 0x00))

/-- 44_button_decoder.md R199: in NES mode byte 1 is dropped from the report, yet a change confined to it is a change and
reaches `LP`. -/
def Obligations.NesReportHidesByteOne : Prop :=
  ∀ (s : State) (b1 : Byte), modeOf s.lp.b1 = .nes → modeOf b1 = .nes → b1 ≠ s.lp.b1 → s.lr = { s.lp with b1 := b1 } →
    s.changed = true ∧ ∃ t, exec (.decode true) s = .next t ∧ t.rpt = reportOf s.lp ∧ t.lp.b1 = b1

/-! ### The sequencer -/

/-- 40_initializer.md R111: CONFIG writes the pad bits and both idle levels in one tick and goes to LATCH_HI; from the
next tick both lines are driven at their idle levels and both pull-ups are on. -/
def Obligations.ConfigAppliesLineConfiguration : Prop :=
  ∀ s : State, exec .config s = .next { s with cfg := 0b1111, latch := .L, clock := .H, ph := 2 } ∧
    ∀ t, exec .config s = .next t → t.ports.latchLine = some .L ∧ t.ports.clockLine = some .H ∧
      t.ports.dataPue = true ∧ t.ports.auxPue = true

/-- 41_acquirer.md R133: LATCH_HI. `N_LATCH` fits the counter in every admissible configuration (00_scope.md R6). -/
def Obligations.LatchHiRaisesLatch : Prop :=
  ∀ s : State, s.params.Valid →
    exec .latchHi s = .next { s with latch := .H, t := s.params.nLatch, ph := 3 }

/-- 41_acquirer.md R136 and R139: LATCH_LO and CLK_LO. -/
def Obligations.LatchLoAndClkLoLowerTheirLines : Prop :=
  ∀ s : State, exec .latchLo s = .next { s with latch := .L, ph := 5 } ∧
    exec .clkLo s = .next { s with clock := .L, ph := 8 }

/-- One tick of each wait phase (41_acquirer.md R134, R135, R138, R141), from every state whose `T` fits its register. -/
def Obligations.WaitTick : Prop :=
  ∀ s : State, s.t < 2 ^ s.params.wT →
    (1 < s.t → exec .waitLatch s = .next { s with t := s.t - 1 } ∧ exec .waitPre s = .next { s with t := s.t - 1 } ∧
      exec .waitPost s = .next { s with t := s.t - 1 }) ∧
    (s.t ≤ 1 → exec .waitLatch s = .next { s with ph := 4 } ∧ exec .waitPre s = .next { s with ph := 7 } ∧
      exec .waitPost s = .next { s with ph := 10 })

/-- 41_acquirer.md R134: a wait phase entered with `T = N` lasts exactly `N` ticks, moves nothing but `T` and `PH`, and
leaves with `T = 1`. -/
def Obligations.WaitPhaseLastsItsLoad : Prop :=
  ∀ (s : State) (succ : BitVec 4), s.params.Valid →
    (s.ph, succ) ∈ [(Ph.waitLatch, Ph.latchLo), (Ph.waitPre, Ph.clkLo), (Ph.waitPost, Ph.clkHi)] →
    1 ≤ s.t → s.t < 2 ^ s.params.wT → s.NoReset s.t →
    (∀ n, n < s.t → run n s = .next { s with t := s.t - n, inputs := s.inputs.drop n, draw := s.draw + n }) ∧
    run s.t s = .next { s with t := 1, ph := succ, inputs := s.inputs.drop s.t, draw := s.draw + s.t }

/-- 41_acquirer.md R137: AUX_SAMPLE keeps the raw level and starts the bit loop, for every way the line can be driven
(20_memory.md R67); where neither the environment nor a pull-up settles the level it is the free level (log 2). -/
def Obligations.AuxSampleKeepsRawLevel : Prop :=
  ∀ (s : State) (l : Level), s.params.Valid →
    (s.port.aux = .driven l ∨ (s.port.aux = .undriven ∧ s.cfg.getLsbD 3 = true ∧ l = .H) ∨
      (s.port.aux = .undriven ∧ s.cfg.getLsbD 3 = false ∧ l = Config.freeLevel .aux s.draw) ∨
      (s.port.aux = .unconstrained ∧ l = Config.freeLevel .aux s.draw)) →
    exec .auxSample s = .next { s with auxs := l, byte := 0, bit := 0, t := s.params.nHalf, ph := 6 }

/-- 41_acquirer.md R140: DATA_SAMPLE shifts the complement of the level into `ACC` at bit 0, for every way the line can be
driven (20_memory.md R67); where neither the environment nor a pull-up settles the level it is the free level (log 2). -/
def Obligations.DataSampleShiftsInvertedLevel : Prop :=
  ∀ (s : State) (l : Level), s.params.Valid →
    (s.port.data = .driven l ∨ (s.port.data = .undriven ∧ s.cfg.getLsbD 2 = true ∧ l = .H) ∨
      (s.port.data = .undriven ∧ s.cfg.getLsbD 2 = false ∧ l = Config.freeLevel .data s.draw) ∨
      (s.port.data = .unconstrained ∧ l = Config.freeLevel .data s.draw)) →
    exec .dataSample s =
      .next { s with acc := (s.acc <<< 1) ||| (if l = .L then 1 else 0), t := s.params.nHalf, ph := 9 }

/-- 41_acquirer.md R142: CLK_HI and the bit loop; `BIT + 1` never overflows. -/
def Obligations.ClkHiCountsBits : Prop :=
  ∀ s : State, s.params.Valid →
    (s.bit ≠ 7 → (s.bit + 1).toNat = s.bit.toNat + 1 ∧
      exec .clkHi s = .next { s with clock := .H, bit := s.bit + 1, t := s.params.nHalf, ph := 6 }) ∧
    (s.bit = 7 → exec .clkHi s = .next { s with clock := .H, ph := 11 })

/-- 41_acquirer.md R143: STORE and the byte loop. -/
def Obligations.StoreCountsBytes : Prop :=
  ∀ s : State, s.params.Valid →
    (s.byte = 0 → exec .store s =
      .next { s with s0 := s.acc, byte := 1, bit := 0, t := s.params.nHalf, ph := 6 }) ∧
    (s.byte = 1 → exec .store s = .next { s with s1 := s.acc, ph := 12 })

/-- 41_acquirer.md R144: COMMIT writes the three bytes and `RET` in one tick, and no other tick with `rst` low changes
`LR`. -/
def Obligations.CommitIsOnlyWriterOfLastRead : Prop :=
  (∀ s : State, exec .commit s =
    .next { s with
      lr := { b0 := s.s0, b1 := s.s1, b2 := if s.auxs = .L then 0x01 else 0x00 }, ret := 0x00, ph := 0 }) ∧
  (∀ s t : State, s.port.rst = false → s.ph ≠ Ph.commit → step s = .next t → t.lr = s.lr)

/-- IDLE with no command changes no register (41_acquirer.md R132); the reserved phases set the idle levels and return to
IDLE (R145). -/
def Obligations.IdleAndReservedPhases : Prop :=
  ∀ s : State, exec .idle s = .next s ∧
    exec .reserved13 s = .next { s with latch := .L, clock := .H, ph := 0 } ∧
    exec .reserved14 s = .next { s with latch := .L, clock := .H, ph := 0 } ∧
    exec .reserved15 s = .next { s with latch := .L, clock := .H, ph := 0 }

/-- 41_acquirer.md R146: the complete table of the sequencer's transitions. -/
def Obligations.ControlFlowTable : Prop :=
  ∀ s t : State, step s = .next t →
    (s.port.rst = true → t.ph = 0) ∧
    (s.port.rst = false →
      (s.ph = 0 → s.port.cmdValid = true → cmdOp s.port.cmd = 0b00 → t.ph = 1) ∧
      (s.ph = 0 → s.port.cmdValid = true → cmdOp s.port.cmd = 0b01 → t.ph = 2) ∧
      (s.ph = 0 → (s.port.cmdValid = false ∨ cmdOp s.port.cmd = 0b10 ∨ cmdOp s.port.cmd = 0b11) → t.ph = 0) ∧
      (s.ph = 1 → t.ph = 2) ∧ (s.ph = 2 → t.ph = 3) ∧
      (s.ph = 3 → t.ph = if 1 < s.t then 3 else 4) ∧ (s.ph = 4 → t.ph = 5) ∧ (s.ph = 5 → t.ph = 6) ∧
      (s.ph = 6 → t.ph = if 1 < s.t then 6 else 7) ∧ (s.ph = 7 → t.ph = 8) ∧ (s.ph = 8 → t.ph = 9) ∧
      (s.ph = 9 → t.ph = if 1 < s.t then 9 else 10) ∧
      (s.ph = 10 → t.ph = if s.bit ≠ 7 then 6 else 11) ∧ (s.ph = 11 → t.ph = if s.byte = 0 then 6 else 12) ∧
      (13 ≤ s.ph.toNat ∨ s.ph = 12 → t.ph = 0))

/-! ### Rules of the whole machine -/

/-- 10_state.md R42: the complete table of write rights. Reset writes every register; in a tick with `rst` low each
register is changed only by the operations the table gives a write to. The phases other than IDLE are the ticks of INIT
and ACQUIRE, and CONFIG belongs to INIT alone. -/
def Obligations.WriteRights : Prop :=
  ∀ s t : State, step s = .next t →
    (s.port.rst = true → t = { State.resetWith s.params with inputs := t.inputs, draw := t.draw }) ∧
    (s.port.rst = false →
      (s.ph ≠ Ph.idle → t.lp = s.lp ∧ t.rpt = s.rpt ∧ t.rptValid = s.rptValid ∧
        (s.ph ≠ Ph.commit → t.lr = s.lr ∧ t.ret = s.ret) ∧ (s.ph = Ph.commit → t.ret = 0x00) ∧
        (s.ph ≠ Ph.config → t.cfg = s.cfg) ∧ (s.ph = Ph.config → t.cfg = 0b1111)) ∧
      (t.ph = Ph.config → ∃ w, s.Accepts w ∧ cmdOp w = Op.init) ∧
      (∀ w, s.Accepts w → cmdOp w = Op.init ∨ cmdOp w = Op.acquire →
        t.lr = s.lr ∧ t.lp = s.lp ∧ t.rpt = s.rpt ∧ t.rptValid = s.rptValid ∧ t.ret = s.ret ∧ t.acc = s.acc ∧
        t.s0 = s.s0 ∧ t.s1 = s.s1 ∧ t.auxs = s.auxs ∧ t.byte = s.byte ∧ t.bit = s.bit ∧ t.t = s.t ∧
        t.latch = s.latch ∧ t.clock = s.clock ∧ t.cfg = s.cfg) ∧
      (∀ w, s.Accepts w → cmdOp w = Op.changed →
        t = { s with ret := t.ret, inputs := t.inputs, draw := t.draw }) ∧
      (∀ w, s.Accepts w → cmdOp w = Op.decode →
        t = { s with lp := t.lp, rpt := t.rpt, rptValid := t.rptValid, inputs := t.inputs, draw := t.draw } ∧
        (w.getLsbD 2 = false → t.rpt = s.rpt ∧ t.rptValid = s.rptValid)) ∧
      (s.ph = Ph.idle → s.port.cmdValid = false → t = { s with inputs := t.inputs, draw := t.draw })) ∧
    t.params = s.params

/-- 10_state.md R27: `RPT_VALID` is set by every DECODE with a destination and by nothing else, and cleared by reset
only. That a DECODE leaves a report to read and that there is none to read while `RPT_VALID` is 0, `hostReport` as an
option, is the model's choice between the two that 93_implementation_defined.md U19 allows (log 11). -/
def Obligations.ReportValidOnlyFromDecode : Prop :=
  (∀ s : State, ∃ t, exec (.decode true) s = .next t ∧ t.rptValid = true ∧ t.hostReport = some (reportOf s.lr)) ∧
  (∀ s t : State, step s = .next t → s.rptValid = true → t.rptValid = false → s.port.rst = true) ∧
  (∀ s t : State, step s = .next t → s.rptValid = false → t.rptValid = true →
    ∃ w, s.Accepts w ∧ decodeCommand w = .decode true) ∧
  (∀ s t : State, s.port.rst = true → step s = .next t → t.rptValid = false) ∧
  (∀ s : State, s.rptValid = false → s.hostReport = none)

/-- 60_exceptions.md R215: `irq_inhibit` is high in the one tick after an INIT is accepted and in no other. -/
def Obligations.IrqInhibitOneTickPerInit : Prop :=
  (∀ s : State, s.ports.irqInhibit = true ↔ s.ph = Ph.config) ∧
  (∀ (s : State) (w : BitVec 3), s.params.Valid → s.Accepts w → cmdOp w = Op.init →
    ∃ t, step s = .next t ∧ t.ports.irqInhibit = true) ∧
  (∀ s t : State, step s = .next t → t.ports.irqInhibit = true →
    s.ports.irqInhibit = false ∧ ∃ w, s.Accepts w ∧ cmdOp w = Op.init)

/-- 10_state.md R35: the five status values as the ports show them, and the tri-state lines of 20_memory.md R65. -/
def Obligations.PortsAreFunctionsOfRegisters : Prop :=
  ∀ s : State, (s.ports.busy = true ↔ s.ph ≠ 0) ∧ (s.ports.changed = true ↔ s.lr ≠ s.lp) ∧
    (s.ports.mode = 1 ↔ s.lr.b1 &&& 0x0F = 0x0F) ∧ (s.ports.irqInhibit = true ↔ s.ph = 1) ∧
    s.ports.rptValid = s.rptValid ∧
    (s.cfg.getLsbD 0 = true → s.ports.latchLine = some s.latch) ∧ (s.cfg.getLsbD 0 = false → s.ports.latchLine = none) ∧
    (s.cfg.getLsbD 1 = true → s.ports.clockLine = some s.clock) ∧ (s.cfg.getLsbD 1 = false → s.ports.clockLine = none)

/-- The reset state meets the invariant, in every admissible configuration. -/
def Obligations.ResetMeetsInvariant : Prop :=
  StateInv State.reset ∧
  ∀ (p : Config.Params) (inputs : List TickInput) (draw : Nat), p.Valid →
    StateInv { State.resetWith p with inputs := inputs, draw := draw }

/-- Every step keeps the invariant, whatever the inputs. -/
def Obligations.StepKeepsInvariant : Prop :=
  ∀ s t : State, StateInv s → step s = .next t → StateInv t

/-- 10_state.md R39: in every reachable state with `PH == IDLE`, `LATCH == 0` and `CLOCK == 1`. -/
def Obligations.IdleLevelsInReachableStates : Prop :=
  ∀ t : State, Reachable t → t.ph = Ph.idle → t.latch = .L ∧ t.clock = .H

/-- 10_state.md R24 (a), (b): in every run from reset, `LR` is all zero or what some earlier COMMIT assembled, and `LP` is
all zero or a value `LR` held at an earlier DECODE. -/
def Obligations.SamplesComeFromCommitAndDecode : Prop :=
  ∀ (p : Config.Params) (inputs : List TickInput) (draw n : Nat) (t : State),
    run n { State.resetWith p with inputs := inputs, draw := draw } = .next t →
    (t.lr = { b0 := 0, b1 := 0, b2 := 0 } ∨
      ∃ m u, m < n ∧ run m { State.resetWith p with inputs := inputs, draw := draw } = .next u ∧ u.ph = Ph.commit ∧
        t.lr = { b0 := u.s0, b1 := u.s1, b2 := auxByte u.auxs }) ∧
    (t.lp = { b0 := 0, b1 := 0, b2 := 0 } ∨
      ∃ m u w, m < n ∧ run m { State.resetWith p with inputs := inputs, draw := draw } = .next u ∧ u.Accepts w ∧
        cmdOp w = Op.decode ∧ t.lp = u.lr)

/-- 10_state.md R37: no run ever shows the host what the staging registers, the loop counters and the delay counter held
when the block was last idle. The two runs have the same inputs and draw the same free levels (log 1, log 2). -/
def Obligations.HiddenStateNeverObserved : Prop :=
  ∀ (n : Nat) (s : State) (acc s0 s1 : Byte) (auxs : Level) (byte : BitVec 1) (bit : BitVec 3) (t : Nat),
    s.params.Valid → s.ph = Ph.idle →
    ∃ u v, run n s = .next u ∧
      run n { s with acc := acc, s0 := s0, s1 := s1, auxs := auxs, byte := byte, bit := bit, t := t } = .next v ∧
      u.ports = v.ports

/-! ### The two levels -/

/-- 41_acquirer.md R148, ACQUIRE: `N_LATCH + 32 * N_HALF + 55` ticks after acceptance the block is in IDLE with exactly
what ACQUIRE(a, d) gives, `a` and `d` being the levels in the seventeen sample ticks of R149. -/
def Obligations.AcquireRefinesOperation : Prop :=
  ∀ (s : State) (w : BitVec 3) (a : Level) (d : Fin 16 → Level) (n : Nat),
    s.params.Valid → s.Accepts w → cmdOp w = Op.acquire → n = Timing.acquireTicks s.params → s.NoReset n →
    a = s.auxLevelAt s.cfg (Timing.auxTick s.params) →
    (∀ k : Fin 16, d k = s.dataLevelAt s.cfg (Timing.dataTick s.params k.val)) →
    run n s = .next { opAcquire a d s with
      ph := Ph.idle, s0 := (acquisition a d).b0, s1 := (acquisition a d).b1, acc := (acquisition a d).b1, auxs := a,
      byte := 1, bit := 7, t := 1, inputs := s.inputs.drop n, draw := s.draw + n }

/-- 41_acquirer.md R148, INIT: the same one tick later, with the configuration applied first and both pull-ups on at
every sample (40_initializer.md R110). -/
def Obligations.InitRefinesOperation : Prop :=
  ∀ (s : State) (w : BitVec 3) (a : Level) (d : Fin 16 → Level) (n : Nat),
    s.params.Valid → s.Accepts w → cmdOp w = Op.init → n = Timing.initTicks s.params → s.NoReset n →
    a = s.auxLevelAt 0b1111 (Timing.auxTick s.params + 1) →
    (∀ k : Fin 16, d k = s.dataLevelAt 0b1111 (Timing.dataTick s.params k.val + 1)) →
    run n s = .next { opInit a d s with
      ph := Ph.idle, s0 := (acquisition a d).b0, s1 := (acquisition a d).b1, acc := (acquisition a d).b1, auxs := a,
      byte := 1, bit := 7, t := 1, inputs := s.inputs.drop n, draw := s.draw + n }

/-- 40_initializer.md R113: from a configured block with its lines idle an INIT ends in the state an ACQUIRE with the same
samples ends in; it clears none of `LR`, `LP`, `RPT`, `RPT_VALID` otherwise. What is longer by one tick is the sequence
(`InitRefinesOperation`). -/
def Obligations.LaterInitIsAnAcquire : Prop :=
  ∀ (s : State) (a : Level) (d : Fin 16 → Level), s.cfg = 0b1111 → s.latch = .L → s.clock = .H →
    opInit a d s = opAcquire a d s ∧ (opInit a d s).lp = s.lp ∧ (opInit a d s).rpt = s.rpt ∧
      (opInit a d s).rptValid = s.rptValid

/-- 70_reset_and_hazards.md R234: the state after reset followed by one INIT. -/
def Obligations.BootByInit : Prop :=
  ∀ (s t : State) (w : BitVec 3) (n : Nat), s.params.Valid → s.port.rst = true → step s = .next t →
    t.Accepts w → cmdOp w = Op.init → n = Timing.initTicks t.params → t.NoReset n →
    ∃ u a d, run n t = .next u ∧ u.cfg = 0b1111 ∧ u.latch = .L ∧ u.clock = .H ∧ u.ph = Ph.idle ∧
      u.lr = acquisition a d ∧ u.lp = { b0 := 0x00, b1 := 0x00, b2 := 0x00 } ∧ u.rptValid = false ∧ u.ret = 0x00 ∧
      a = t.auxLevelAt 0b1111 (Timing.auxTick t.params + 1) ∧
      (∀ k : Fin 16, d k = t.dataLevelAt 0b1111 (Timing.dataTick t.params k.val + 1)) ∧
      (u.changed = true ↔ u.lr ≠ { b0 := 0x00, b1 := 0x00, b2 := 0x00 })

/-- 41_acquirer.md R149: the phase in every tick of an ACQUIRE, from acceptance to IDLE. -/
def Obligations.AcquireTickSchedule : Prop :=
  ∀ (s : State) (w : BitVec 3) (n : Nat), s.params.Valid → s.Accepts w → cmdOp w = Op.acquire →
    n ≤ Timing.acquireTicks s.params → s.NoReset n →
    ∃ t, run n s = .next t ∧ t.ph = Timing.phaseAt s.params n

/-- 41_acquirer.md R149, R150: `busy` is high for exactly `N_LATCH + 32 * N_HALF + 54` ticks; the latch register is high
for `N_LATCH + 1` ticks and the clock register low for `N_HALF + 2` ticks of each of the sixteen bits, and at no other
time; and these lengths meet the minimums of 12 µs and 6 µs, as does the shortest clock-high gap. -/
def Obligations.AcquireWaveform : Prop :=
  ∀ (s : State) (w : BitVec 3), s.params.Valid → s.Accepts w → cmdOp w = Op.acquire → s.latch = .L → s.clock = .H →
    (∀ n, n ≤ Timing.acquireTicks s.params → s.NoReset n → ∃ t, run n s = .next t ∧
      (t.busy = true ↔ 1 ≤ n ∧ n ≤ s.params.nLatch + 32 * s.params.nHalf + 54) ∧
      (t.latch = .H ↔ 2 ≤ n ∧ n ≤ s.params.nLatch + 2) ∧
      (t.clock = .L ↔ ∃ k, k < 16 ∧ Timing.bitTick s.params k + s.params.nHalf + 1 ≤ n ∧
        n ≤ Timing.bitTick s.params k + 2 * s.params.nHalf + 2)) ∧
    12 * s.params.tClkDen ≤ (s.params.nLatch + 1) * s.params.tClkNum ∧
    6 * s.params.tClkDen ≤ (s.params.nHalf + 2) * s.params.tClkNum ∧
    6 * s.params.tClkDen ≤ (s.params.nHalf + 1) * s.params.tClkNum

/-- 41_acquirer.md R146, 70_reset_and_hazards.md R243: from any busy state of the invariant the block is back in IDLE
within `N_LATCH + 32 * N_HALF + 55` ticks, whatever the lines do and whatever is presented. -/
def Obligations.BusySequenceEnds : Prop :=
  ∀ s : State, StateInv s → s.busy = true → s.NoReset (Timing.acquireTicks s.params) →
    ∃ n t, 1 ≤ n ∧ n ≤ Timing.acquireTicks s.params ∧ run n s = .next t ∧ t.ph = Ph.idle
end

