-- ==== Sys2Proof/Laws/State.lean ====
section
/-! SUPPORT. What each named write of `Machine/Ops.lean` leaves in each field: one lemma for each field and write. -/

namespace Sys2Proof.Machine.State

section
variable (s : State) (p : BitVec 4)
@[simp] theorem goto_lr : (s.goto p).lr = s.lr := rfl
@[simp] theorem goto_lp : (s.goto p).lp = s.lp := rfl
@[simp] theorem goto_rpt : (s.goto p).rpt = s.rpt := rfl
@[simp] theorem goto_rptValid : (s.goto p).rptValid = s.rptValid := rfl
@[simp] theorem goto_ret : (s.goto p).ret = s.ret := rfl
@[simp] theorem goto_acc : (s.goto p).acc = s.acc := rfl
@[simp] theorem goto_s0 : (s.goto p).s0 = s.s0 := rfl
@[simp] theorem goto_s1 : (s.goto p).s1 = s.s1 := rfl
@[simp] theorem goto_auxs : (s.goto p).auxs = s.auxs := rfl
@[simp] theorem goto_ph : (s.goto p).ph = p := rfl
@[simp] theorem goto_byte : (s.goto p).byte = s.byte := rfl
@[simp] theorem goto_bit : (s.goto p).bit = s.bit := rfl
@[simp] theorem goto_t : (s.goto p).t = s.t := rfl
@[simp] theorem goto_latch : (s.goto p).latch = s.latch := rfl
@[simp] theorem goto_clock : (s.goto p).clock = s.clock := rfl
@[simp] theorem goto_cfg : (s.goto p).cfg = s.cfg := rfl
@[simp] theorem goto_params : (s.goto p).params = s.params := rfl
@[simp] theorem goto_inputs : (s.goto p).inputs = s.inputs := rfl
@[simp] theorem goto_draw : (s.goto p).draw = s.draw := rfl
end

section
variable (s : State) (n : Nat)
@[simp] theorem writeT_lr : (s.writeT n).lr = s.lr := rfl
@[simp] theorem writeT_lp : (s.writeT n).lp = s.lp := rfl
@[simp] theorem writeT_rpt : (s.writeT n).rpt = s.rpt := rfl
@[simp] theorem writeT_rptValid : (s.writeT n).rptValid = s.rptValid := rfl
@[simp] theorem writeT_ret : (s.writeT n).ret = s.ret := rfl
@[simp] theorem writeT_acc : (s.writeT n).acc = s.acc := rfl
@[simp] theorem writeT_s0 : (s.writeT n).s0 = s.s0 := rfl
@[simp] theorem writeT_s1 : (s.writeT n).s1 = s.s1 := rfl
@[simp] theorem writeT_auxs : (s.writeT n).auxs = s.auxs := rfl
@[simp] theorem writeT_ph : (s.writeT n).ph = s.ph := rfl
@[simp] theorem writeT_byte : (s.writeT n).byte = s.byte := rfl
@[simp] theorem writeT_bit : (s.writeT n).bit = s.bit := rfl
@[simp] theorem writeT_t : (s.writeT n).t = n % 2 ^ s.params.wT := rfl
@[simp] theorem writeT_latch : (s.writeT n).latch = s.latch := rfl
@[simp] theorem writeT_clock : (s.writeT n).clock = s.clock := rfl
@[simp] theorem writeT_cfg : (s.writeT n).cfg = s.cfg := rfl
@[simp] theorem writeT_params : (s.writeT n).params = s.params := rfl
@[simp] theorem writeT_inputs : (s.writeT n).inputs = s.inputs := rfl
@[simp] theorem writeT_draw : (s.writeT n).draw = s.draw := rfl
end

section
variable (s : State) (l : Level)
@[simp] theorem writeLatch_lr : (s.writeLatch l).lr = s.lr := rfl
@[simp] theorem writeLatch_lp : (s.writeLatch l).lp = s.lp := rfl
@[simp] theorem writeLatch_rpt : (s.writeLatch l).rpt = s.rpt := rfl
@[simp] theorem writeLatch_rptValid : (s.writeLatch l).rptValid = s.rptValid := rfl
@[simp] theorem writeLatch_ret : (s.writeLatch l).ret = s.ret := rfl
@[simp] theorem writeLatch_acc : (s.writeLatch l).acc = s.acc := rfl
@[simp] theorem writeLatch_s0 : (s.writeLatch l).s0 = s.s0 := rfl
@[simp] theorem writeLatch_s1 : (s.writeLatch l).s1 = s.s1 := rfl
@[simp] theorem writeLatch_auxs : (s.writeLatch l).auxs = s.auxs := rfl
@[simp] theorem writeLatch_ph : (s.writeLatch l).ph = s.ph := rfl
@[simp] theorem writeLatch_byte : (s.writeLatch l).byte = s.byte := rfl
@[simp] theorem writeLatch_bit : (s.writeLatch l).bit = s.bit := rfl
@[simp] theorem writeLatch_t : (s.writeLatch l).t = s.t := rfl
@[simp] theorem writeLatch_latch : (s.writeLatch l).latch = l := rfl
@[simp] theorem writeLatch_clock : (s.writeLatch l).clock = s.clock := rfl
@[simp] theorem writeLatch_cfg : (s.writeLatch l).cfg = s.cfg := rfl
@[simp] theorem writeLatch_params : (s.writeLatch l).params = s.params := rfl
@[simp] theorem writeLatch_inputs : (s.writeLatch l).inputs = s.inputs := rfl
@[simp] theorem writeLatch_draw : (s.writeLatch l).draw = s.draw := rfl
end

section
variable (s : State) (l : Level)
@[simp] theorem writeClock_lr : (s.writeClock l).lr = s.lr := rfl
@[simp] theorem writeClock_lp : (s.writeClock l).lp = s.lp := rfl
@[simp] theorem writeClock_rpt : (s.writeClock l).rpt = s.rpt := rfl
@[simp] theorem writeClock_rptValid : (s.writeClock l).rptValid = s.rptValid := rfl
@[simp] theorem writeClock_ret : (s.writeClock l).ret = s.ret := rfl
@[simp] theorem writeClock_acc : (s.writeClock l).acc = s.acc := rfl
@[simp] theorem writeClock_s0 : (s.writeClock l).s0 = s.s0 := rfl
@[simp] theorem writeClock_s1 : (s.writeClock l).s1 = s.s1 := rfl
@[simp] theorem writeClock_auxs : (s.writeClock l).auxs = s.auxs := rfl
@[simp] theorem writeClock_ph : (s.writeClock l).ph = s.ph := rfl
@[simp] theorem writeClock_byte : (s.writeClock l).byte = s.byte := rfl
@[simp] theorem writeClock_bit : (s.writeClock l).bit = s.bit := rfl
@[simp] theorem writeClock_t : (s.writeClock l).t = s.t := rfl
@[simp] theorem writeClock_latch : (s.writeClock l).latch = s.latch := rfl
@[simp] theorem writeClock_clock : (s.writeClock l).clock = l := rfl
@[simp] theorem writeClock_cfg : (s.writeClock l).cfg = s.cfg := rfl
@[simp] theorem writeClock_params : (s.writeClock l).params = s.params := rfl
@[simp] theorem writeClock_inputs : (s.writeClock l).inputs = s.inputs := rfl
@[simp] theorem writeClock_draw : (s.writeClock l).draw = s.draw := rfl
end

section
variable (s : State) (v : BitVec 4)
@[simp] theorem writeCfg_lr : (s.writeCfg v).lr = s.lr := rfl
@[simp] theorem writeCfg_lp : (s.writeCfg v).lp = s.lp := rfl
@[simp] theorem writeCfg_rpt : (s.writeCfg v).rpt = s.rpt := rfl
@[simp] theorem writeCfg_rptValid : (s.writeCfg v).rptValid = s.rptValid := rfl
@[simp] theorem writeCfg_ret : (s.writeCfg v).ret = s.ret := rfl
@[simp] theorem writeCfg_acc : (s.writeCfg v).acc = s.acc := rfl
@[simp] theorem writeCfg_s0 : (s.writeCfg v).s0 = s.s0 := rfl
@[simp] theorem writeCfg_s1 : (s.writeCfg v).s1 = s.s1 := rfl
@[simp] theorem writeCfg_auxs : (s.writeCfg v).auxs = s.auxs := rfl
@[simp] theorem writeCfg_ph : (s.writeCfg v).ph = s.ph := rfl
@[simp] theorem writeCfg_byte : (s.writeCfg v).byte = s.byte := rfl
@[simp] theorem writeCfg_bit : (s.writeCfg v).bit = s.bit := rfl
@[simp] theorem writeCfg_t : (s.writeCfg v).t = s.t := rfl
@[simp] theorem writeCfg_latch : (s.writeCfg v).latch = s.latch := rfl
@[simp] theorem writeCfg_clock : (s.writeCfg v).clock = s.clock := rfl
@[simp] theorem writeCfg_cfg : (s.writeCfg v).cfg = v := rfl
@[simp] theorem writeCfg_params : (s.writeCfg v).params = s.params := rfl
@[simp] theorem writeCfg_inputs : (s.writeCfg v).inputs = s.inputs := rfl
@[simp] theorem writeCfg_draw : (s.writeCfg v).draw = s.draw := rfl
end

section
variable (s : State) (r : RawSample)
@[simp] theorem writeLr_lr : (s.writeLr r).lr = r := rfl
@[simp] theorem writeLr_lp : (s.writeLr r).lp = s.lp := rfl
@[simp] theorem writeLr_rpt : (s.writeLr r).rpt = s.rpt := rfl
@[simp] theorem writeLr_rptValid : (s.writeLr r).rptValid = s.rptValid := rfl
@[simp] theorem writeLr_ret : (s.writeLr r).ret = s.ret := rfl
@[simp] theorem writeLr_acc : (s.writeLr r).acc = s.acc := rfl
@[simp] theorem writeLr_s0 : (s.writeLr r).s0 = s.s0 := rfl
@[simp] theorem writeLr_s1 : (s.writeLr r).s1 = s.s1 := rfl
@[simp] theorem writeLr_auxs : (s.writeLr r).auxs = s.auxs := rfl
@[simp] theorem writeLr_ph : (s.writeLr r).ph = s.ph := rfl
@[simp] theorem writeLr_byte : (s.writeLr r).byte = s.byte := rfl
@[simp] theorem writeLr_bit : (s.writeLr r).bit = s.bit := rfl
@[simp] theorem writeLr_t : (s.writeLr r).t = s.t := rfl
@[simp] theorem writeLr_latch : (s.writeLr r).latch = s.latch := rfl
@[simp] theorem writeLr_clock : (s.writeLr r).clock = s.clock := rfl
@[simp] theorem writeLr_cfg : (s.writeLr r).cfg = s.cfg := rfl
@[simp] theorem writeLr_params : (s.writeLr r).params = s.params := rfl
@[simp] theorem writeLr_inputs : (s.writeLr r).inputs = s.inputs := rfl
@[simp] theorem writeLr_draw : (s.writeLr r).draw = s.draw := rfl
end

section
variable (s : State) (r : RawSample)
@[simp] theorem writeLp_lr : (s.writeLp r).lr = s.lr := rfl
@[simp] theorem writeLp_lp : (s.writeLp r).lp = r := rfl
@[simp] theorem writeLp_rpt : (s.writeLp r).rpt = s.rpt := rfl
@[simp] theorem writeLp_rptValid : (s.writeLp r).rptValid = s.rptValid := rfl
@[simp] theorem writeLp_ret : (s.writeLp r).ret = s.ret := rfl
@[simp] theorem writeLp_acc : (s.writeLp r).acc = s.acc := rfl
@[simp] theorem writeLp_s0 : (s.writeLp r).s0 = s.s0 := rfl
@[simp] theorem writeLp_s1 : (s.writeLp r).s1 = s.s1 := rfl
@[simp] theorem writeLp_auxs : (s.writeLp r).auxs = s.auxs := rfl
@[simp] theorem writeLp_ph : (s.writeLp r).ph = s.ph := rfl
@[simp] theorem writeLp_byte : (s.writeLp r).byte = s.byte := rfl
@[simp] theorem writeLp_bit : (s.writeLp r).bit = s.bit := rfl
@[simp] theorem writeLp_t : (s.writeLp r).t = s.t := rfl
@[simp] theorem writeLp_latch : (s.writeLp r).latch = s.latch := rfl
@[simp] theorem writeLp_clock : (s.writeLp r).clock = s.clock := rfl
@[simp] theorem writeLp_cfg : (s.writeLp r).cfg = s.cfg := rfl
@[simp] theorem writeLp_params : (s.writeLp r).params = s.params := rfl
@[simp] theorem writeLp_inputs : (s.writeLp r).inputs = s.inputs := rfl
@[simp] theorem writeLp_draw : (s.writeLp r).draw = s.draw := rfl
end

section
variable (s : State) (r : Report)
@[simp] theorem writeRpt_lr : (s.writeRpt r).lr = s.lr := rfl
@[simp] theorem writeRpt_lp : (s.writeRpt r).lp = s.lp := rfl
@[simp] theorem writeRpt_rpt : (s.writeRpt r).rpt = r := rfl
@[simp] theorem writeRpt_rptValid : (s.writeRpt r).rptValid = true := rfl
@[simp] theorem writeRpt_ret : (s.writeRpt r).ret = s.ret := rfl
@[simp] theorem writeRpt_acc : (s.writeRpt r).acc = s.acc := rfl
@[simp] theorem writeRpt_s0 : (s.writeRpt r).s0 = s.s0 := rfl
@[simp] theorem writeRpt_s1 : (s.writeRpt r).s1 = s.s1 := rfl
@[simp] theorem writeRpt_auxs : (s.writeRpt r).auxs = s.auxs := rfl
@[simp] theorem writeRpt_ph : (s.writeRpt r).ph = s.ph := rfl
@[simp] theorem writeRpt_byte : (s.writeRpt r).byte = s.byte := rfl
@[simp] theorem writeRpt_bit : (s.writeRpt r).bit = s.bit := rfl
@[simp] theorem writeRpt_t : (s.writeRpt r).t = s.t := rfl
@[simp] theorem writeRpt_latch : (s.writeRpt r).latch = s.latch := rfl
@[simp] theorem writeRpt_clock : (s.writeRpt r).clock = s.clock := rfl
@[simp] theorem writeRpt_cfg : (s.writeRpt r).cfg = s.cfg := rfl
@[simp] theorem writeRpt_params : (s.writeRpt r).params = s.params := rfl
@[simp] theorem writeRpt_inputs : (s.writeRpt r).inputs = s.inputs := rfl
@[simp] theorem writeRpt_draw : (s.writeRpt r).draw = s.draw := rfl
end

section
variable (s : State) (v : Byte)
@[simp] theorem writeRet_lr : (s.writeRet v).lr = s.lr := rfl
@[simp] theorem writeRet_lp : (s.writeRet v).lp = s.lp := rfl
@[simp] theorem writeRet_rpt : (s.writeRet v).rpt = s.rpt := rfl
@[simp] theorem writeRet_rptValid : (s.writeRet v).rptValid = s.rptValid := rfl
@[simp] theorem writeRet_ret : (s.writeRet v).ret = v := rfl
@[simp] theorem writeRet_acc : (s.writeRet v).acc = s.acc := rfl
@[simp] theorem writeRet_s0 : (s.writeRet v).s0 = s.s0 := rfl
@[simp] theorem writeRet_s1 : (s.writeRet v).s1 = s.s1 := rfl
@[simp] theorem writeRet_auxs : (s.writeRet v).auxs = s.auxs := rfl
@[simp] theorem writeRet_ph : (s.writeRet v).ph = s.ph := rfl
@[simp] theorem writeRet_byte : (s.writeRet v).byte = s.byte := rfl
@[simp] theorem writeRet_bit : (s.writeRet v).bit = s.bit := rfl
@[simp] theorem writeRet_t : (s.writeRet v).t = s.t := rfl
@[simp] theorem writeRet_latch : (s.writeRet v).latch = s.latch := rfl
@[simp] theorem writeRet_clock : (s.writeRet v).clock = s.clock := rfl
@[simp] theorem writeRet_cfg : (s.writeRet v).cfg = s.cfg := rfl
@[simp] theorem writeRet_params : (s.writeRet v).params = s.params := rfl
@[simp] theorem writeRet_inputs : (s.writeRet v).inputs = s.inputs := rfl
@[simp] theorem writeRet_draw : (s.writeRet v).draw = s.draw := rfl
end

section
variable (s : State) (v : Byte)
@[simp] theorem writeAcc_lr : (s.writeAcc v).lr = s.lr := rfl
@[simp] theorem writeAcc_lp : (s.writeAcc v).lp = s.lp := rfl
@[simp] theorem writeAcc_rpt : (s.writeAcc v).rpt = s.rpt := rfl
@[simp] theorem writeAcc_rptValid : (s.writeAcc v).rptValid = s.rptValid := rfl
@[simp] theorem writeAcc_ret : (s.writeAcc v).ret = s.ret := rfl
@[simp] theorem writeAcc_acc : (s.writeAcc v).acc = v := rfl
@[simp] theorem writeAcc_s0 : (s.writeAcc v).s0 = s.s0 := rfl
@[simp] theorem writeAcc_s1 : (s.writeAcc v).s1 = s.s1 := rfl
@[simp] theorem writeAcc_auxs : (s.writeAcc v).auxs = s.auxs := rfl
@[simp] theorem writeAcc_ph : (s.writeAcc v).ph = s.ph := rfl
@[simp] theorem writeAcc_byte : (s.writeAcc v).byte = s.byte := rfl
@[simp] theorem writeAcc_bit : (s.writeAcc v).bit = s.bit := rfl
@[simp] theorem writeAcc_t : (s.writeAcc v).t = s.t := rfl
@[simp] theorem writeAcc_latch : (s.writeAcc v).latch = s.latch := rfl
@[simp] theorem writeAcc_clock : (s.writeAcc v).clock = s.clock := rfl
@[simp] theorem writeAcc_cfg : (s.writeAcc v).cfg = s.cfg := rfl
@[simp] theorem writeAcc_params : (s.writeAcc v).params = s.params := rfl
@[simp] theorem writeAcc_inputs : (s.writeAcc v).inputs = s.inputs := rfl
@[simp] theorem writeAcc_draw : (s.writeAcc v).draw = s.draw := rfl
end

section
variable (s : State) (v : Byte)
@[simp] theorem writeS0_lr : (s.writeS0 v).lr = s.lr := rfl
@[simp] theorem writeS0_lp : (s.writeS0 v).lp = s.lp := rfl
@[simp] theorem writeS0_rpt : (s.writeS0 v).rpt = s.rpt := rfl
@[simp] theorem writeS0_rptValid : (s.writeS0 v).rptValid = s.rptValid := rfl
@[simp] theorem writeS0_ret : (s.writeS0 v).ret = s.ret := rfl
@[simp] theorem writeS0_acc : (s.writeS0 v).acc = s.acc := rfl
@[simp] theorem writeS0_s0 : (s.writeS0 v).s0 = v := rfl
@[simp] theorem writeS0_s1 : (s.writeS0 v).s1 = s.s1 := rfl
@[simp] theorem writeS0_auxs : (s.writeS0 v).auxs = s.auxs := rfl
@[simp] theorem writeS0_ph : (s.writeS0 v).ph = s.ph := rfl
@[simp] theorem writeS0_byte : (s.writeS0 v).byte = s.byte := rfl
@[simp] theorem writeS0_bit : (s.writeS0 v).bit = s.bit := rfl
@[simp] theorem writeS0_t : (s.writeS0 v).t = s.t := rfl
@[simp] theorem writeS0_latch : (s.writeS0 v).latch = s.latch := rfl
@[simp] theorem writeS0_clock : (s.writeS0 v).clock = s.clock := rfl
@[simp] theorem writeS0_cfg : (s.writeS0 v).cfg = s.cfg := rfl
@[simp] theorem writeS0_params : (s.writeS0 v).params = s.params := rfl
@[simp] theorem writeS0_inputs : (s.writeS0 v).inputs = s.inputs := rfl
@[simp] theorem writeS0_draw : (s.writeS0 v).draw = s.draw := rfl
end

section
variable (s : State) (v : Byte)
@[simp] theorem writeS1_lr : (s.writeS1 v).lr = s.lr := rfl
@[simp] theorem writeS1_lp : (s.writeS1 v).lp = s.lp := rfl
@[simp] theorem writeS1_rpt : (s.writeS1 v).rpt = s.rpt := rfl
@[simp] theorem writeS1_rptValid : (s.writeS1 v).rptValid = s.rptValid := rfl
@[simp] theorem writeS1_ret : (s.writeS1 v).ret = s.ret := rfl
@[simp] theorem writeS1_acc : (s.writeS1 v).acc = s.acc := rfl
@[simp] theorem writeS1_s0 : (s.writeS1 v).s0 = s.s0 := rfl
@[simp] theorem writeS1_s1 : (s.writeS1 v).s1 = v := rfl
@[simp] theorem writeS1_auxs : (s.writeS1 v).auxs = s.auxs := rfl
@[simp] theorem writeS1_ph : (s.writeS1 v).ph = s.ph := rfl
@[simp] theorem writeS1_byte : (s.writeS1 v).byte = s.byte := rfl
@[simp] theorem writeS1_bit : (s.writeS1 v).bit = s.bit := rfl
@[simp] theorem writeS1_t : (s.writeS1 v).t = s.t := rfl
@[simp] theorem writeS1_latch : (s.writeS1 v).latch = s.latch := rfl
@[simp] theorem writeS1_clock : (s.writeS1 v).clock = s.clock := rfl
@[simp] theorem writeS1_cfg : (s.writeS1 v).cfg = s.cfg := rfl
@[simp] theorem writeS1_params : (s.writeS1 v).params = s.params := rfl
@[simp] theorem writeS1_inputs : (s.writeS1 v).inputs = s.inputs := rfl
@[simp] theorem writeS1_draw : (s.writeS1 v).draw = s.draw := rfl
end

section
variable (s : State) (l : Level)
@[simp] theorem writeAuxs_lr : (s.writeAuxs l).lr = s.lr := rfl
@[simp] theorem writeAuxs_lp : (s.writeAuxs l).lp = s.lp := rfl
@[simp] theorem writeAuxs_rpt : (s.writeAuxs l).rpt = s.rpt := rfl
@[simp] theorem writeAuxs_rptValid : (s.writeAuxs l).rptValid = s.rptValid := rfl
@[simp] theorem writeAuxs_ret : (s.writeAuxs l).ret = s.ret := rfl
@[simp] theorem writeAuxs_acc : (s.writeAuxs l).acc = s.acc := rfl
@[simp] theorem writeAuxs_s0 : (s.writeAuxs l).s0 = s.s0 := rfl
@[simp] theorem writeAuxs_s1 : (s.writeAuxs l).s1 = s.s1 := rfl
@[simp] theorem writeAuxs_auxs : (s.writeAuxs l).auxs = l := rfl
@[simp] theorem writeAuxs_ph : (s.writeAuxs l).ph = s.ph := rfl
@[simp] theorem writeAuxs_byte : (s.writeAuxs l).byte = s.byte := rfl
@[simp] theorem writeAuxs_bit : (s.writeAuxs l).bit = s.bit := rfl
@[simp] theorem writeAuxs_t : (s.writeAuxs l).t = s.t := rfl
@[simp] theorem writeAuxs_latch : (s.writeAuxs l).latch = s.latch := rfl
@[simp] theorem writeAuxs_clock : (s.writeAuxs l).clock = s.clock := rfl
@[simp] theorem writeAuxs_cfg : (s.writeAuxs l).cfg = s.cfg := rfl
@[simp] theorem writeAuxs_params : (s.writeAuxs l).params = s.params := rfl
@[simp] theorem writeAuxs_inputs : (s.writeAuxs l).inputs = s.inputs := rfl
@[simp] theorem writeAuxs_draw : (s.writeAuxs l).draw = s.draw := rfl
end

section
variable (s : State) (v : BitVec 1)
@[simp] theorem writeByte_lr : (s.writeByte v).lr = s.lr := rfl
@[simp] theorem writeByte_lp : (s.writeByte v).lp = s.lp := rfl
@[simp] theorem writeByte_rpt : (s.writeByte v).rpt = s.rpt := rfl
@[simp] theorem writeByte_rptValid : (s.writeByte v).rptValid = s.rptValid := rfl
@[simp] theorem writeByte_ret : (s.writeByte v).ret = s.ret := rfl
@[simp] theorem writeByte_acc : (s.writeByte v).acc = s.acc := rfl
@[simp] theorem writeByte_s0 : (s.writeByte v).s0 = s.s0 := rfl
@[simp] theorem writeByte_s1 : (s.writeByte v).s1 = s.s1 := rfl
@[simp] theorem writeByte_auxs : (s.writeByte v).auxs = s.auxs := rfl
@[simp] theorem writeByte_ph : (s.writeByte v).ph = s.ph := rfl
@[simp] theorem writeByte_byte : (s.writeByte v).byte = v := rfl
@[simp] theorem writeByte_bit : (s.writeByte v).bit = s.bit := rfl
@[simp] theorem writeByte_t : (s.writeByte v).t = s.t := rfl
@[simp] theorem writeByte_latch : (s.writeByte v).latch = s.latch := rfl
@[simp] theorem writeByte_clock : (s.writeByte v).clock = s.clock := rfl
@[simp] theorem writeByte_cfg : (s.writeByte v).cfg = s.cfg := rfl
@[simp] theorem writeByte_params : (s.writeByte v).params = s.params := rfl
@[simp] theorem writeByte_inputs : (s.writeByte v).inputs = s.inputs := rfl
@[simp] theorem writeByte_draw : (s.writeByte v).draw = s.draw := rfl
end

section
variable (s : State) (v : BitVec 3)
@[simp] theorem writeBit_lr : (s.writeBit v).lr = s.lr := rfl
@[simp] theorem writeBit_lp : (s.writeBit v).lp = s.lp := rfl
@[simp] theorem writeBit_rpt : (s.writeBit v).rpt = s.rpt := rfl
@[simp] theorem writeBit_rptValid : (s.writeBit v).rptValid = s.rptValid := rfl
@[simp] theorem writeBit_ret : (s.writeBit v).ret = s.ret := rfl
@[simp] theorem writeBit_acc : (s.writeBit v).acc = s.acc := rfl
@[simp] theorem writeBit_s0 : (s.writeBit v).s0 = s.s0 := rfl
@[simp] theorem writeBit_s1 : (s.writeBit v).s1 = s.s1 := rfl
@[simp] theorem writeBit_auxs : (s.writeBit v).auxs = s.auxs := rfl
@[simp] theorem writeBit_ph : (s.writeBit v).ph = s.ph := rfl
@[simp] theorem writeBit_byte : (s.writeBit v).byte = s.byte := rfl
@[simp] theorem writeBit_bit : (s.writeBit v).bit = v := rfl
@[simp] theorem writeBit_t : (s.writeBit v).t = s.t := rfl
@[simp] theorem writeBit_latch : (s.writeBit v).latch = s.latch := rfl
@[simp] theorem writeBit_clock : (s.writeBit v).clock = s.clock := rfl
@[simp] theorem writeBit_cfg : (s.writeBit v).cfg = s.cfg := rfl
@[simp] theorem writeBit_params : (s.writeBit v).params = s.params := rfl
@[simp] theorem writeBit_inputs : (s.writeBit v).inputs = s.inputs := rfl
@[simp] theorem writeBit_draw : (s.writeBit v).draw = s.draw := rfl
end

section
variable (s : State)
@[simp] theorem endTick_lr : s.endTick.lr = s.lr := rfl
@[simp] theorem endTick_lp : s.endTick.lp = s.lp := rfl
@[simp] theorem endTick_rpt : s.endTick.rpt = s.rpt := rfl
@[simp] theorem endTick_rptValid : s.endTick.rptValid = s.rptValid := rfl
@[simp] theorem endTick_ret : s.endTick.ret = s.ret := rfl
@[simp] theorem endTick_acc : s.endTick.acc = s.acc := rfl
@[simp] theorem endTick_s0 : s.endTick.s0 = s.s0 := rfl
@[simp] theorem endTick_s1 : s.endTick.s1 = s.s1 := rfl
@[simp] theorem endTick_auxs : s.endTick.auxs = s.auxs := rfl
@[simp] theorem endTick_ph : s.endTick.ph = s.ph := rfl
@[simp] theorem endTick_byte : s.endTick.byte = s.byte := rfl
@[simp] theorem endTick_bit : s.endTick.bit = s.bit := rfl
@[simp] theorem endTick_t : s.endTick.t = s.t := rfl
@[simp] theorem endTick_latch : s.endTick.latch = s.latch := rfl
@[simp] theorem endTick_clock : s.endTick.clock = s.clock := rfl
@[simp] theorem endTick_cfg : s.endTick.cfg = s.cfg := rfl
@[simp] theorem endTick_params : s.endTick.params = s.params := rfl
@[simp] theorem endTick_inputs : s.endTick.inputs = s.inputs.tail := rfl
@[simp] theorem endTick_draw : s.endTick.draw = s.draw + 1 := rfl
end

section
variable (s : State) (i : TickInput)
@[simp] theorem withPort_lr : (s.withPort i).lr = s.lr := rfl
@[simp] theorem withPort_lp : (s.withPort i).lp = s.lp := rfl
@[simp] theorem withPort_rpt : (s.withPort i).rpt = s.rpt := rfl
@[simp] theorem withPort_rptValid : (s.withPort i).rptValid = s.rptValid := rfl
@[simp] theorem withPort_ret : (s.withPort i).ret = s.ret := rfl
@[simp] theorem withPort_acc : (s.withPort i).acc = s.acc := rfl
@[simp] theorem withPort_s0 : (s.withPort i).s0 = s.s0 := rfl
@[simp] theorem withPort_s1 : (s.withPort i).s1 = s.s1 := rfl
@[simp] theorem withPort_auxs : (s.withPort i).auxs = s.auxs := rfl
@[simp] theorem withPort_ph : (s.withPort i).ph = s.ph := rfl
@[simp] theorem withPort_byte : (s.withPort i).byte = s.byte := rfl
@[simp] theorem withPort_bit : (s.withPort i).bit = s.bit := rfl
@[simp] theorem withPort_t : (s.withPort i).t = s.t := rfl
@[simp] theorem withPort_latch : (s.withPort i).latch = s.latch := rfl
@[simp] theorem withPort_clock : (s.withPort i).clock = s.clock := rfl
@[simp] theorem withPort_cfg : (s.withPort i).cfg = s.cfg := rfl
@[simp] theorem withPort_params : (s.withPort i).params = s.params := rfl
@[simp] theorem withPort_inputs : (s.withPort i).inputs = i :: s.inputs.tail := rfl
@[simp] theorem withPort_draw : (s.withPort i).draw = s.draw := rfl
end

end Sys2Proof.Machine.State
end

