-- ==== Sys2Proof/Laws/Ops.lean ====
section
/-! SUPPORT. What each shared operation can do, said once: the ports, the wait rule, the composed writes, reset, the
level of a line, the shift, and the fetch. -/

namespace Sys2Proof.Machine

open Sys2Proof.Config (Params)

namespace State

theorem portAt_zero (s : State) : s.portAt 0 = s.port := rfl

@[simp] theorem endTick_portAt (s : State) (n : Nat) : s.endTick.portAt n = s.portAt (n + 1) := by
  simp [portAt, List.drop_tail]

@[simp] theorem endTick_port (s : State) : s.endTick.port = s.portAt 1 := endTick_portAt s 0

@[simp] theorem withPort_port (s : State) (i : TickInput) : (s.withPort i).port = i := rfl

@[simp] theorem withPort_self_tail (s : State) (i : TickInput) : (s.withPort i).endTick = s.endTick := rfl

/-- The ports depend on the inputs alone. -/
theorem port_congr {s t : State} (h : t.inputs = s.inputs) : t.port = s.port := by simp [port, h]

theorem portAt_congr {s t : State} (h : t.inputs = s.inputs) (n : Nat) : t.portAt n = s.portAt n := by
  simp [portAt, h]

/-- A count that fits its register is stored as it is. -/
theorem writeT_of_lt {s : State} {n : Nat} (h : n < 2 ^ s.params.wT) : s.writeT n = { s with t := n } := by
  simp [writeT, Nat.mod_eq_of_lt h]

/-- What a wait tick can do: count down, or leave for the successor. -/
theorem waitTick_cases (s : State) (succ : BitVec 4) :
    (1 < s.t ∧ s.waitTick succ = s.writeT (s.t - 1)) ∨ (s.t ≤ 1 ∧ s.waitTick succ = s.goto succ) := by
  by_cases h : s.t > 1
  · exact .inl ⟨h, by simp [waitTick, h]⟩
  · exact .inr ⟨by omega, by simp [waitTick, h]⟩

theorem enterHalfWait_eq {s : State} (h : s.params.nHalf < 2 ^ s.params.wT) (p : BitVec 4) :
    s.enterHalfWait p = { s with t := s.params.nHalf, ph := p } := by
  simp [enterHalfWait, writeT_of_lt h, goto]

theorem idleLevels_eq (s : State) : s.idleLevels = { s with latch := .L, clock := .H } := rfl

theorem recover_eq (s : State) : s.recover = { s with latch := .L, clock := .H, ph := Ph.idle } := rfl

theorem resetTick_eq (s : State) :
    s.resetTick = { State.resetWith s.params with inputs := s.inputs.tail, draw := s.draw + 1 } := rfl

/-- The wait rule touches nothing but `T` and `PH`. -/
theorem waitTick_eq (s : State) (succ : BitVec 4) :
    s.waitTick succ = { s with t := (s.waitTick succ).t, ph := (s.waitTick succ).ph } := by
  rcases waitTick_cases s succ with ⟨-, h⟩ | ⟨-, h⟩ <;> rw [h] <;> rfl

theorem waitTick_withPort (s : State) (i : TickInput) (succ : BitVec 4) :
    (s.withPort i).waitTick succ = (s.waitTick succ).withPort i := by
  change (if s.t > 1 then (s.withPort i).writeT (s.t - 1) else (s.withPort i).goto succ) = _
  unfold waitTick
  split <;> rfl

@[simp] theorem waitTick_lr (s : State) (p : BitVec 4) : (s.waitTick p).lr = s.lr := by rw [waitTick_eq]
@[simp] theorem waitTick_lp (s : State) (p : BitVec 4) : (s.waitTick p).lp = s.lp := by rw [waitTick_eq]
@[simp] theorem waitTick_rpt (s : State) (p : BitVec 4) : (s.waitTick p).rpt = s.rpt := by rw [waitTick_eq]
@[simp] theorem waitTick_rptValid (s : State) (p : BitVec 4) : (s.waitTick p).rptValid = s.rptValid := by rw [waitTick_eq]
@[simp] theorem waitTick_ret (s : State) (p : BitVec 4) : (s.waitTick p).ret = s.ret := by rw [waitTick_eq]
@[simp] theorem waitTick_acc (s : State) (p : BitVec 4) : (s.waitTick p).acc = s.acc := by rw [waitTick_eq]
@[simp] theorem waitTick_s0 (s : State) (p : BitVec 4) : (s.waitTick p).s0 = s.s0 := by rw [waitTick_eq]
@[simp] theorem waitTick_s1 (s : State) (p : BitVec 4) : (s.waitTick p).s1 = s.s1 := by rw [waitTick_eq]
@[simp] theorem waitTick_auxs (s : State) (p : BitVec 4) : (s.waitTick p).auxs = s.auxs := by rw [waitTick_eq]
@[simp] theorem waitTick_byte (s : State) (p : BitVec 4) : (s.waitTick p).byte = s.byte := by rw [waitTick_eq]
@[simp] theorem waitTick_bit (s : State) (p : BitVec 4) : (s.waitTick p).bit = s.bit := by rw [waitTick_eq]
@[simp] theorem waitTick_latch (s : State) (p : BitVec 4) : (s.waitTick p).latch = s.latch := by rw [waitTick_eq]
@[simp] theorem waitTick_clock (s : State) (p : BitVec 4) : (s.waitTick p).clock = s.clock := by rw [waitTick_eq]
@[simp] theorem waitTick_cfg (s : State) (p : BitVec 4) : (s.waitTick p).cfg = s.cfg := by rw [waitTick_eq]
@[simp] theorem waitTick_params (s : State) (p : BitVec 4) : (s.waitTick p).params = s.params := by rw [waitTick_eq]
@[simp] theorem waitTick_inputs (s : State) (p : BitVec 4) : (s.waitTick p).inputs = s.inputs := by rw [waitTick_eq]
@[simp] theorem waitTick_draw (s : State) (p : BitVec 4) : (s.waitTick p).draw = s.draw := by rw [waitTick_eq]
@[simp] theorem enterHalfWait_lr (s : State) (p : BitVec 4) : (s.enterHalfWait p).lr = s.lr := rfl
@[simp] theorem enterHalfWait_lp (s : State) (p : BitVec 4) : (s.enterHalfWait p).lp = s.lp := rfl
@[simp] theorem enterHalfWait_rpt (s : State) (p : BitVec 4) : (s.enterHalfWait p).rpt = s.rpt := rfl
@[simp] theorem enterHalfWait_rptValid (s : State) (p : BitVec 4) : (s.enterHalfWait p).rptValid = s.rptValid := rfl
@[simp] theorem enterHalfWait_ret (s : State) (p : BitVec 4) : (s.enterHalfWait p).ret = s.ret := rfl
@[simp] theorem enterHalfWait_acc (s : State) (p : BitVec 4) : (s.enterHalfWait p).acc = s.acc := rfl
@[simp] theorem enterHalfWait_s0 (s : State) (p : BitVec 4) : (s.enterHalfWait p).s0 = s.s0 := rfl
@[simp] theorem enterHalfWait_s1 (s : State) (p : BitVec 4) : (s.enterHalfWait p).s1 = s.s1 := rfl
@[simp] theorem enterHalfWait_auxs (s : State) (p : BitVec 4) : (s.enterHalfWait p).auxs = s.auxs := rfl
@[simp] theorem enterHalfWait_ph (s : State) (p : BitVec 4) : (s.enterHalfWait p).ph = p := rfl
@[simp] theorem enterHalfWait_byte (s : State) (p : BitVec 4) : (s.enterHalfWait p).byte = s.byte := rfl
@[simp] theorem enterHalfWait_bit (s : State) (p : BitVec 4) : (s.enterHalfWait p).bit = s.bit := rfl
@[simp] theorem enterHalfWait_t (s : State) (p : BitVec 4) : (s.enterHalfWait p).t = s.params.nHalf % 2 ^ s.params.wT := rfl
@[simp] theorem enterHalfWait_latch (s : State) (p : BitVec 4) : (s.enterHalfWait p).latch = s.latch := rfl
@[simp] theorem enterHalfWait_clock (s : State) (p : BitVec 4) : (s.enterHalfWait p).clock = s.clock := rfl
@[simp] theorem enterHalfWait_cfg (s : State) (p : BitVec 4) : (s.enterHalfWait p).cfg = s.cfg := rfl
@[simp] theorem enterHalfWait_params (s : State) (p : BitVec 4) : (s.enterHalfWait p).params = s.params := rfl
@[simp] theorem enterHalfWait_inputs (s : State) (p : BitVec 4) : (s.enterHalfWait p).inputs = s.inputs := rfl
@[simp] theorem enterHalfWait_draw (s : State) (p : BitVec 4) : (s.enterHalfWait p).draw = s.draw := rfl
@[simp] theorem idleLevels_lr (s : State) : s.idleLevels.lr = s.lr := rfl
@[simp] theorem idleLevels_lp (s : State) : s.idleLevels.lp = s.lp := rfl
@[simp] theorem idleLevels_rpt (s : State) : s.idleLevels.rpt = s.rpt := rfl
@[simp] theorem idleLevels_rptValid (s : State) : s.idleLevels.rptValid = s.rptValid := rfl
@[simp] theorem idleLevels_ret (s : State) : s.idleLevels.ret = s.ret := rfl
@[simp] theorem idleLevels_acc (s : State) : s.idleLevels.acc = s.acc := rfl
@[simp] theorem idleLevels_s0 (s : State) : s.idleLevels.s0 = s.s0 := rfl
@[simp] theorem idleLevels_s1 (s : State) : s.idleLevels.s1 = s.s1 := rfl
@[simp] theorem idleLevels_auxs (s : State) : s.idleLevels.auxs = s.auxs := rfl
@[simp] theorem idleLevels_ph (s : State) : s.idleLevels.ph = s.ph := rfl
@[simp] theorem idleLevels_byte (s : State) : s.idleLevels.byte = s.byte := rfl
@[simp] theorem idleLevels_bit (s : State) : s.idleLevels.bit = s.bit := rfl
@[simp] theorem idleLevels_t (s : State) : s.idleLevels.t = s.t := rfl
@[simp] theorem idleLevels_latch (s : State) : s.idleLevels.latch = .L := rfl
@[simp] theorem idleLevels_clock (s : State) : s.idleLevels.clock = .H := rfl
@[simp] theorem idleLevels_cfg (s : State) : s.idleLevels.cfg = s.cfg := rfl
@[simp] theorem idleLevels_params (s : State) : s.idleLevels.params = s.params := rfl
@[simp] theorem idleLevels_inputs (s : State) : s.idleLevels.inputs = s.inputs := rfl
@[simp] theorem idleLevels_draw (s : State) : s.idleLevels.draw = s.draw := rfl
@[simp] theorem recover_lr (s : State) : s.recover.lr = s.lr := rfl
@[simp] theorem recover_lp (s : State) : s.recover.lp = s.lp := rfl
@[simp] theorem recover_rpt (s : State) : s.recover.rpt = s.rpt := rfl
@[simp] theorem recover_rptValid (s : State) : s.recover.rptValid = s.rptValid := rfl
@[simp] theorem recover_ret (s : State) : s.recover.ret = s.ret := rfl
@[simp] theorem recover_acc (s : State) : s.recover.acc = s.acc := rfl
@[simp] theorem recover_s0 (s : State) : s.recover.s0 = s.s0 := rfl
@[simp] theorem recover_s1 (s : State) : s.recover.s1 = s.s1 := rfl
@[simp] theorem recover_auxs (s : State) : s.recover.auxs = s.auxs := rfl
@[simp] theorem recover_ph (s : State) : s.recover.ph = Ph.idle := rfl
@[simp] theorem recover_byte (s : State) : s.recover.byte = s.byte := rfl
@[simp] theorem recover_bit (s : State) : s.recover.bit = s.bit := rfl
@[simp] theorem recover_t (s : State) : s.recover.t = s.t := rfl
@[simp] theorem recover_latch (s : State) : s.recover.latch = .L := rfl
@[simp] theorem recover_clock (s : State) : s.recover.clock = .H := rfl
@[simp] theorem recover_cfg (s : State) : s.recover.cfg = s.cfg := rfl
@[simp] theorem recover_params (s : State) : s.recover.params = s.params := rfl
@[simp] theorem recover_inputs (s : State) : s.recover.inputs = s.inputs := rfl
@[simp] theorem recover_draw (s : State) : s.recover.draw = s.draw := rfl

/-- A command runs exactly when one is presented in IDLE. -/
theorem fetchWord_command {s : State} (hp : s.ph = Ph.idle) (hv : s.port.cmdValid = true) :
    s.fetchWord = .cmd s.port.cmd := by
  simp [fetchWord, hp, hv]

/-- Outside IDLE the phase's rule runs, whatever the host presents. -/
theorem fetchWord_busy {s : State} (hp : s.ph ≠ Ph.idle) : s.fetchWord = .phase s.ph := by
  exact if_neg fun h => hp h.1

/-- With no command presented the phase's rule runs. -/
theorem fetchWord_quiet {s : State} (hv : s.port.cmdValid = false) : s.fetchWord = .phase s.ph := by
  simp [fetchWord, hv]

end State

@[simp] theorem lineLevel_driven (line : Line) (pullUp : Bool) (l : Level) (n : Nat) :
    lineLevel line pullUp (.driven l) n = l := rfl

@[simp] theorem lineLevel_pulled_up (line : Line) (n : Nat) : lineLevel line true .undriven n = .H := rfl

/-- The new bit enters at bit 0 and every old bit moves up by one. -/
theorem shiftIn_getLsbD (acc : Byte) (b : Bool) (i : Nat) :
    (shiftIn acc b).getLsbD i = if i = 0 then b else decide (i < 8) && acc.getLsbD (i - 1) := by
  unfold shiftIn
  rw [BitVec.getLsbD_concat]
  rcases Nat.eq_zero_or_pos i with rfl | hi
  · simp
  · have : i ≠ 0 := by omega
    simp only [this, if_false, BitVec.getLsbD_extractLsb', Nat.zero_add]
    congr 1
    exact decide_eq_decide.mpr (by omega)

theorem exec_inl_afterExec {i : Instr} {s t : State} (h : exec i s = .next t) :
    afterExec (exec i s) = .next t.endTick := by
  rw [h]; rfl

end Sys2Proof.Machine
end

