-- ==== Sys2Proof/Laws/Run.lean ====
section
/-! SUPPORT. Steps and runs: what one step can be, how runs compose, how a wait phase passes. -/

namespace Sys2Proof.Machine

open Sys2Proof.Config (Params)

/-- In an admissible configuration a step is a tick. -/
theorem step_eq_tick {s : State} (hv : s.params.Valid) : step s = tick s := if_pos hv

/-- A configuration outside the constraints is refused. -/
theorem step_inadmissible {s : State} (hv : ¬ s.params.Valid) : step s = .refused .inadmissibleParameters := if_neg hv

/-- Only an admissible configuration takes a step. -/
theorem step_valid {s t : State} (h : step s = .next t) : s.params.Valid := by
  by_contra hv
  rw [step_inadmissible hv] at h
  cases h

/-- A tick with `rst` high is the reset tick. -/
theorem step_reset {s : State} (hv : s.params.Valid) (h : s.port.rst = true) : step s = .next s.resetTick := by
  rw [step_eq_tick hv, tick, if_pos h]

/-- A tick with `rst` low whose instruction answers a next state. -/
theorem step_exec {s t : State} (hv : s.params.Valid) (hr : s.port.rst = false)
    (h : exec (decodeWord s.fetchWord) s = .next t) :
    step s = .next t.endTick := by
  rw [step_eq_tick hv, tick, hr, h]
  rfl

/-- What a step can be: a reset tick, or the fetched instruction and the tick's end. -/
theorem step_cases {s t : State} (h : step s = .next t) :
    (s.port.rst = true ∧ t = s.resetTick) ∨
      (s.port.rst = false ∧ ∃ u, exec (decodeWord s.fetchWord) s = .next u ∧ t = u.endTick) := by
  rw [step_eq_tick (step_valid h), tick] at h
  cases hr : s.port.rst with
  | true => simp only [hr, if_true, Host.Outcome.next.injEq] at h; exact .inl ⟨rfl, h.symm⟩
  | false =>
    simp only [hr, Bool.false_eq_true, if_false] at h
    cases hu : exec (decodeWord s.fetchWord) s with
    | next u => rw [hu] at h; exact .inr ⟨rfl, u, rfl, (Host.Outcome.next.inj h).symm⟩
    | fault f => cases f
    | refused r => rw [hu] at h; cases h

/-- A phase's rule runs in a tick in which the block is busy. -/
theorem step_phase {s t : State} {p : BitVec 4} (hv : s.params.Valid) (hr : s.port.rst = false) (hp : s.ph = p)
    (hi : p ≠ Ph.idle) (h : exec (decodePhase p) s = .next t) : step s = .next t.endTick := by
  subst hp
  exact step_exec hv hr (by rw [State.fetchWord_busy hi]; exact h)

/-- The accepted command runs in a tick in which the block is idle. -/
theorem step_command {s t : State} {w : BitVec 3} (hv : s.params.Valid) (hr : s.port.rst = false) (hp : s.ph = Ph.idle)
    (hw : s.Presents w) (h : exec (decodeCommand w) s = .next t) : step s = .next t.endTick :=
  step_exec hv hr (by rw [State.fetchWord_command hp hw.1, hw.2]; exact h)

/-- No instruction touches what is not a register of the block. -/
theorem exec_keeps {i : Instr} {s t : State} (h : exec i s = .next t) :
    t.params = s.params ∧ t.inputs = s.inputs ∧ t.draw = s.draw := by
  cases i <;> simp only [exec, execInit, execAcquire, execChanged, execDecode, execIdle, execConfig, execLatchHi,
    execWaitLatch, execLatchLo, execAuxSample, execWaitPre, execClkLo, execDataSample, execWaitPost, execClkHi,
    execStore, execCommit, execReserved13, execReserved14, execReserved15] at h <;>
    (try split at h) <;> obtain rfl := Host.Outcome.next.inj h <;> simp

/-- Of the input ports an instruction reads DATA in DATA_SAMPLE and AUX in AUX_SAMPLE, and no others (20_memory.md R66). -/
theorem exec_withPort {i : Instr} {s t : State} (j : TickInput) (hd : i = .dataSample → j.data = s.port.data)
    (ha : i = .auxSample → j.aux = s.port.aux) (h : exec i s = .next t) :
    exec i (s.withPort j) = .next (t.withPort j) := by
  have hpd : i = .dataSample → (s.withPort j).pinReadData = s.pinReadData := fun hi => by
    simp [State.pinReadData, State.dataPue, hd hi]
  have hpa : i = .auxSample → (s.withPort j).pinReadAux = s.pinReadAux := fun hi => by
    simp [State.pinReadAux, State.auxPue, ha hi]
  cases i <;> simp only [exec, execInit, execAcquire, execChanged, execDecode, execIdle, execConfig, execLatchHi,
    execWaitLatch, execLatchLo, execAuxSample, execWaitPre, execClkLo, execDataSample, execWaitPost, execClkHi,
    execStore, execCommit, execReserved13, execReserved14, execReserved15] at h ⊢
  case dataSample => rw [hpd rfl]; obtain rfl := Host.Outcome.next.inj h; rfl
  case auxSample => rw [hpa rfl]; obtain rfl := Host.Outcome.next.inj h; rfl
  case decode | clkHi | store =>
    split at h <;> obtain rfl := Host.Outcome.next.inj h <;> rename_i hc
    · exact if_pos hc
    · exact if_neg hc
  case waitLatch | waitPre | waitPost =>
    obtain rfl := Host.Outcome.next.inj h; rw [State.waitTick_withPort]
  all_goals obtain rfl := Host.Outcome.next.inj h; rfl

@[simp] theorem State.placeWord_params (s : State) (w : FetchWord) : (s.placeWord w).params = s.params := by
  cases w <;> rfl

/-- A step leaves the configuration alone. -/
theorem step_params {s t : State} (h : step s = .next t) : t.params = s.params := by
  rcases step_cases h with ⟨-, rfl⟩ | ⟨-, u, hu, rfl⟩
  · rfl
  · exact (exec_keeps hu).1

@[simp] theorem run_zero (s : State) : run 0 s = .next s := rfl

theorem run_succ {s t : State} (h : step s = .next t) (n : Nat) : run (n + 1) s = run n t := by
  simp [run, h]

/-- Runs compose. -/
theorem run_add {s t : State} {m : Nat} (h : run m s = .next t) (n : Nat) : run (m + n) s = run n t := by
  induction m generalizing s with
  | zero => cases h; simp
  | succ m ih =>
    rw [Nat.add_right_comm]
    simp only [run] at h ⊢
    cases hs : step s with
    | next u => rw [hs] at h; exact ih h
    | fault f => cases f
    | refused r => rw [hs] at h; cases h

/-- The last step of a run. -/
theorem run_last {s t : State} {n : Nat} (h : run (n + 1) s = .next t) : ∃ u, run n s = .next u ∧ step u = .next t := by
  induction n generalizing s with
  | zero =>
    cases hs : step s with
    | next u => rw [run_succ hs] at h; cases h; exact ⟨s, rfl, hs⟩
    | fault f => cases f
    | refused r => simp [run, hs] at h
  | succ n ih =>
    cases hs : step s with
    | next u =>
      rw [run_succ hs] at h
      obtain ⟨v, hv, hl⟩ := ih h
      exact ⟨v, by rw [run_succ hs, hv], hl⟩
    | fault f => cases f
    | refused r => simp [run, hs] at h

/-- A run leaves the configuration alone. -/
theorem run_params {s t : State} {n : Nat} (h : run n s = .next t) : t.params = s.params := by
  induction n generalizing t with
  | zero => cases h; rfl
  | succ n ih =>
    obtain ⟨u, hu, hs⟩ := run_last h
    rw [step_params hs, ih hu]

/-- `run` is the host's own run of this machine. -/
theorem run_eq_core_run (n : Nat) (s : State) : run n s = Host.Core.run Sys2Proof.core n s := by
  induction n generalizing s with
  | zero => rfl
  | succ n ih =>
    have hc : Sys2Proof.core.step s = step s := rfl
    simp only [run, Host.Core.run]
    rw [hc]
    cases step s with
    | next t => exact ih t
    | fault f => rfl
    | refused r => rfl

theorem State.NoReset.mono {s : State} {m n : Nat} (h : s.NoReset n) (hmn : m ≤ n) : s.NoReset m :=
  fun k hk => h k (Nat.lt_of_lt_of_le hk hmn)

theorem State.NoReset.now {s : State} {n : Nat} (h : s.NoReset (n + 1)) : s.port.rst = false := h 0 (Nat.succ_pos n)

/-- The state `n` ticks further on in which only the delay counter and the phase have moved. -/
def State.later (s : State) (n t : Nat) (p : BitVec 4) : State :=
  { s with t := t, ph := p, inputs := s.inputs.drop n, draw := s.draw + n }

/-- A wait phase entered with `T = n + 1` passes in exactly `n + 1` ticks, moving nothing but `T` and `PH`, and leaves
with `T = 1` (41_acquirer.md R134). -/
theorem run_wait {s : State} {p succ : BitVec 4} {n : Nat} (hv : s.params.Valid) (hp : s.ph = p) (hi : p ≠ Ph.idle)
    (hexec : ∀ u : State, exec (decodePhase p) u = .next (u.waitTick succ)) (ht : s.t = n + 1)
    (hw : n + 1 < 2 ^ s.params.wT) (hr : s.NoReset (n + 1)) :
    run (n + 1) s = .next (s.later (n + 1) 1 succ) := by
  induction n generalizing s with
  | zero =>
    have h1 : s.waitTick succ = s.goto succ := by simp [State.waitTick, ht]
    rw [run_succ (step_phase hv hr.now hp hi (hexec s)), h1]
    cases s
    simp_all [State.later, State.goto, State.endTick]
  | succ n ih =>
    have h1 : s.waitTick succ = { s with t := n + 1 } := by
      have : s.t - 1 = n + 1 := by omega
      simp [State.waitTick, ht, State.writeT, Nat.mod_eq_of_lt (show n + 1 < 2 ^ s.params.wT by omega)]
    rw [run_succ (step_phase hv hr.now hp hi (hexec s)), h1]
    have hr' : (State.endTick { s with t := n + 1 }).NoReset (n + 1) := fun k hk => by
      have := hr (k + 1) (by omega)
      rwa [State.endTick_portAt]
    rw [ih (s := State.endTick { s with t := n + 1 }) hv hp rfl (by show n + 1 < 2 ^ s.params.wT; omega) hr']
    simp [State.later, State.endTick, List.drop_tail, Nat.add_comm, Nat.add_left_comm]

end Sys2Proof.Machine
end

