-- ==== Sys2Proof/Laws/Phases.lean ====
section
/-! SUPPORT. The sequencer, phase by phase: the state after a busy tick written out, one lemma for each phase. -/

namespace Sys2Proof.Machine

/-- `N_LATCH` fits the counter. -/
theorem nLatch_fits {p : Sys2Proof.Config.Params} (h : p.Valid) : p.nLatch < 2 ^ p.wT := h.2.2.2.2.2.2.1

/-- `N_HALF` fits the counter. -/
theorem nHalf_fits {p : Sys2Proof.Config.Params} (h : p.Valid) : p.nHalf < 2 ^ p.wT := h.2.2.2.2.2.2.2

/-- The wait rule on a counter that fits its register (41_acquirer.md R134). -/
theorem State.waitTick_of_fits {s : State} (h : s.t < 2 ^ s.params.wT) (succ : BitVec 4) :
    s.waitTick succ = if 1 < s.t then { s with t := s.t - 1 } else { s with ph := succ } := by
  rcases State.waitTick_cases s succ with ⟨h1, h2⟩ | ⟨h1, h2⟩
  · rw [h2, if_pos h1, State.writeT_of_lt (by omega)]
  · rw [h2, if_neg (by omega)]; rfl

variable {s : State}

theorem step_config (hr : s.port.rst = false) (hp : s.ph = Ph.config) (hv : s.params.Valid) :
    step s = .next (State.endTick { s with cfg := 0b1111, latch := .L, clock := .H, ph := Ph.latchHi }) :=
  step_phase hv hr hp (by decide) rfl

theorem step_latchHi (hr : s.port.rst = false) (hp : s.ph = Ph.latchHi) (hv : s.params.Valid) :
    step s = .next (State.endTick { s with latch := .H, t := s.params.nLatch, ph := Ph.waitLatch }) := by
  refine step_phase hv hr hp (by decide) ?_
  change execLatchHi s = _
  rw [execLatchHi, State.writeT_of_lt (by exact nLatch_fits hv)]
  rfl

theorem step_waitLatch (hr : s.port.rst = false) (hp : s.ph = Ph.waitLatch) (hv : s.params.Valid) :
    step s = .next (s.waitTick Ph.latchLo).endTick := step_phase hv hr hp (by decide) rfl

theorem step_latchLo (hr : s.port.rst = false) (hp : s.ph = Ph.latchLo) (hv : s.params.Valid) :
    step s = .next (State.endTick { s with latch := .L, ph := Ph.auxSample }) := step_phase hv hr hp (by decide) rfl

theorem step_auxSample (hr : s.port.rst = false) (hp : s.ph = Ph.auxSample) (hv : s.params.Valid) :
    step s = .next (State.endTick
      { s with auxs := s.pinReadAux, byte := 0, bit := 0, t := s.params.nHalf, ph := Ph.waitPre }) := by
  refine step_phase hv hr hp (by decide) ?_
  change execAuxSample s = _
  rw [execAuxSample, State.enterHalfWait_eq (by exact nHalf_fits hv)]
  rfl

theorem step_waitPre (hr : s.port.rst = false) (hp : s.ph = Ph.waitPre) (hv : s.params.Valid) :
    step s = .next (s.waitTick Ph.clkLo).endTick := step_phase hv hr hp (by decide) rfl

theorem step_clkLo (hr : s.port.rst = false) (hp : s.ph = Ph.clkLo) (hv : s.params.Valid) :
    step s = .next (State.endTick { s with clock := .L, ph := Ph.dataSample }) := step_phase hv hr hp (by decide) rfl

theorem step_dataSample (hr : s.port.rst = false) (hp : s.ph = Ph.dataSample) (hv : s.params.Valid) :
    step s = .next (State.endTick
      { s with acc := shiftIn s.acc (inverted s.pinReadData), t := s.params.nHalf, ph := Ph.waitPost }) := by
  refine step_phase hv hr hp (by decide) ?_
  change execDataSample s = _
  rw [execDataSample, State.enterHalfWait_eq (by exact nHalf_fits hv)]
  rfl

theorem step_waitPost (hr : s.port.rst = false) (hp : s.ph = Ph.waitPost) (hv : s.params.Valid) :
    step s = .next (s.waitTick Ph.clkHi).endTick := step_phase hv hr hp (by decide) rfl

theorem step_clkHi_next (hr : s.port.rst = false) (hp : s.ph = Ph.clkHi) (hv : s.params.Valid) (hb : s.bit ≠ 7) :
    step s = .next (State.endTick
      { s with clock := .H, bit := s.bit + 1, t := s.params.nHalf, ph := Ph.waitPre }) := by
  refine step_phase hv hr hp (by decide) ?_
  change execClkHi s = _
  rw [execClkHi, if_pos hb, State.enterHalfWait_eq (by exact nHalf_fits hv)]
  rfl

theorem step_clkHi_last (hr : s.port.rst = false) (hp : s.ph = Ph.clkHi) (hv : s.params.Valid) (hb : s.bit = 7) :
    step s = .next (State.endTick { s with clock := .H, ph := Ph.store }) := by
  refine step_phase hv hr hp (by decide) ?_
  change execClkHi s = _
  rw [execClkHi, if_neg (not_not.2 hb)]
  rfl

theorem step_store_first (hr : s.port.rst = false) (hp : s.ph = Ph.store) (hv : s.params.Valid) (hb : s.byte = 0) :
    step s = .next (State.endTick
      { s with s0 := s.acc, byte := 1, bit := 0, t := s.params.nHalf, ph := Ph.waitPre }) := by
  refine step_phase hv hr hp (by decide) ?_
  change execStore s = _
  rw [execStore, if_pos hb, State.enterHalfWait_eq (by exact nHalf_fits hv)]
  rfl

theorem step_store_second (hr : s.port.rst = false) (hp : s.ph = Ph.store) (hv : s.params.Valid) (hb : s.byte = 1) :
    step s = .next (State.endTick { s with s1 := s.acc, ph := Ph.commit }) := by
  refine step_phase hv hr hp (by decide) ?_
  change execStore s = _
  rw [execStore, if_neg (by rw [hb]; decide)]
  rfl

theorem step_commit (hr : s.port.rst = false) (hp : s.ph = Ph.commit) (hv : s.params.Valid) :
    step s = .next (State.endTick
      { s with lr := { b0 := s.s0, b1 := s.s1, b2 := auxByte s.auxs }, ret := 0x00, ph := Ph.idle }) :=
  step_phase hv hr hp (by decide) rfl

/-- The twelve phases other than IDLE. -/
theorem busy_phase_cases (p : BitVec 4) (h : p.toNat ≤ 12) (hi : p ≠ Ph.idle) :
    p = Ph.config ∨ p = Ph.latchHi ∨ p = Ph.waitLatch ∨ p = Ph.latchLo ∨ p = Ph.auxSample ∨ p = Ph.waitPre ∨
      p = Ph.clkLo ∨ p = Ph.dataSample ∨ p = Ph.waitPost ∨ p = Ph.clkHi ∨ p = Ph.store ∨ p = Ph.commit := by
  revert p; decide

end Sys2Proof.Machine
end

