-- ==== Sys2Proof/Laws/Acquisition.lean ====
section
/-! SUPPORT. Where the block stands `n` ticks after LATCH_HI began: one description of the state for every tick of an
acquisition (`Standing`), kept by every step, and the state at the end. -/

namespace Sys2Proof.Machine

/-- The first tick of bit `k`, counted from the LATCH_HI tick. -/
def Acq.bitStart (H L : Nat) : Nat → Nat
  | 0 => L + 3
  | k + 1 => Acq.bitStart H L k + (2 * H + 3) + (if k = 7 then 1 else 0)

/-- It is one less than the count from acceptance (41_acquirer.md R149). -/
theorem Acq.bitStart_eq (p : Sys2Proof.Config.Params) (k : Nat) :
    Acq.bitStart p.nHalf p.nLatch k + 1 = Timing.bitTick p k := by
  induction k with
  | zero => simp [bitStart, Timing.bitTick, Timing.firstBitTick]
  | succ k ih =>
    simp only [bitStart, Timing.bitTick, Timing.firstBitTick, Timing.bitTicks] at ih ⊢
    rw [Nat.add_mul]
    split_ifs at ih ⊢ <;> omega

theorem Acq.bitStart_mono (H L : Nat) {j k : Nat} (h : j ≤ k) : bitStart H L j ≤ bitStart H L k := by
  induction h with
  | refl => exact le_rfl
  | step _ ih => simp only [bitStart]; omega

/-- Different bits take different ticks. -/
theorem Acq.bitStart_lt (H L : Nat) {j k : Nat} (h : j < k) : bitStart H L j + (2 * H + 3) ≤ bitStart H L k := by
  have := bitStart_mono H L (show j + 1 ≤ k from h)
  simp only [bitStart] at this
  omega

theorem Acq.bitStart_fifteen (H L : Nat) : bitStart H L 15 + (2 * H + 3) = L + 32 * H + 52 := by
  simp [bitStart]
  omega

/-- The low `m` bits of `x` are the complements of the levels from index `base` on, the first one highest. -/
def Acq.Shifted (d : Nat → Level) (base m : Nat) (x : Byte) : Prop :=
  ∀ j, j < m → x.getLsbD j = inverted (d (base + (m - 1 - j)))

/-- One more DATA sample. -/
theorem Acq.Shifted.push {d : Nat → Level} {base m : Nat} {x : Byte} (h : Shifted d base m x) (hm : m < 8) :
    Shifted d base (m + 1) (shiftIn x (inverted (d (base + m)))) := by
  intro j hj
  rw [shiftIn_getLsbD]
  by_cases h0 : j = 0
  · subst h0; simp
  · rw [if_neg h0, h (j - 1) (by omega)]
    have : j < 8 := by omega
    simp only [this, decide_true, Bool.true_and]
    congr 3
    omega

/-- Bit `7 - k` of a packed byte is its `k`-th bit in wire order. -/
theorem packByte_getLsbD (x : Fin 8 → Bool) (k : Fin 8) :
    (packByte (x 0) (x 1) (x 2) (x 3) (x 4) (x 5) (x 6) (x 7)).getLsbD (7 - k.val) = x k := by
  have key : ∀ a b c d e f g h : Bool, let p := packByte a b c d e f g h
      p.getLsbD 7 = a ∧ p.getLsbD 6 = b ∧ p.getLsbD 5 = c ∧ p.getLsbD 4 = d ∧ p.getLsbD 3 = e ∧ p.getLsbD 2 = f ∧
        p.getLsbD 1 = g ∧ p.getLsbD 0 = h := by decide
  obtain ⟨h1, h2, h3, h4, h5, h6, h7, h8⟩ := key (x 0) (x 1) (x 2) (x 3) (x 4) (x 5) (x 6) (x 7)
  fin_cases k <;> assumption

/-- The sixteen levels as a function on `Fin 16`. -/
def Acq.levels (d : Nat → Level) : Fin 16 → Level := fun k => d k.val

theorem Acq.Shifted.b0_eq {a : Level} {d : Nat → Level} {x : Byte} (h : Shifted d 0 8 x) :
    x = (acquisition a (levels d)).b0 := by
  apply BitVec.eq_of_getLsbD_eq
  intro j hj
  have := packByte_getLsbD (fun i => inverted (d i.val)) ⟨7 - j, by omega⟩
  simp only [show 7 - (7 - j) = j by omega] at this
  rw [h j hj, Nat.zero_add]
  exact this.symm

theorem Acq.Shifted.b1_eq {a : Level} {d : Nat → Level} {x : Byte} (h : Shifted d 8 8 x) :
    x = (acquisition a (levels d)).b1 := by
  apply BitVec.eq_of_getLsbD_eq
  intro j hj
  have := packByte_getLsbD (fun i => inverted (d (8 + i.val))) ⟨7 - j, by omega⟩
  simp only [show 7 - (7 - j) = j by omega] at this
  rw [h j hj]
  exact this.symm

/-- What an acquisition does not touch before COMMIT. -/
structure Acq.Frame (s u : State) (n : Nat) : Prop where
  params : u.params = s.params
  lr : u.lr = s.lr
  lp : u.lp = s.lp
  rpt : u.rpt = s.rpt
  rptValid : u.rptValid = s.rptValid
  ret : u.ret = s.ret
  cfg : u.cfg = s.cfg
  inputs : u.inputs = s.inputs.drop n
  draw : u.draw = s.draw + n

theorem Acq.Frame.refl (s : State) : Frame s s 0 := ⟨rfl, rfl, rfl, rfl, rfl, rfl, rfl, by simp, by simp⟩

/-- A tick that writes none of them. -/
theorem Acq.Frame.tick {s u v : State} {n : Nat} (F : Frame s u n) (h1 : v.params = u.params) (h2 : v.lr = u.lr)
    (h3 : v.lp = u.lp) (h4 : v.rpt = u.rpt) (h5 : v.rptValid = u.rptValid) (h6 : v.ret = u.ret) (h7 : v.cfg = u.cfg)
    (h8 : v.inputs = u.inputs) (h9 : v.draw = u.draw) : Frame s v.endTick (n + 1) where
  params := h1.trans F.params
  lr := h2.trans F.lr
  lp := h3.trans F.lp
  rpt := h4.trans F.rpt
  rptValid := h5.trans F.rptValid
  ret := h6.trans F.ret
  cfg := h7.trans F.cfg
  inputs := by show v.inputs.tail = _; rw [h8, F.inputs, List.tail_drop]
  draw := by show v.draw + 1 = _; rw [h9, F.draw]; omega

/-- Tick `r` of the `2 * H + 3` ticks of bit `k`. The clock starts out high except where the acquisition began with it
low. -/
inductive Acq.InBit (s u : State) (d : Nat → Level) (k r : Nat) : Prop
  | waitPre (hr : r < s.params.nHalf) (hp : u.ph = Ph.waitPre) (ht : u.t = s.params.nHalf - r)
      (hc : s.clock = .H ∨ 0 < k → u.clock = .H) (ha : Shifted d (8 * (k / 8)) (k % 8) u.acc)
  | clkLo (hr : r = s.params.nHalf) (hp : u.ph = Ph.clkLo) (hc : s.clock = .H ∨ 0 < k → u.clock = .H)
      (ha : Shifted d (8 * (k / 8)) (k % 8) u.acc)
  | dataSample (hr : r = s.params.nHalf + 1) (hp : u.ph = Ph.dataSample) (hc : u.clock = .L)
      (ha : Shifted d (8 * (k / 8)) (k % 8) u.acc)
  | waitPost (hr : s.params.nHalf + 2 ≤ r) (hr' : r ≤ 2 * s.params.nHalf + 1) (hp : u.ph = Ph.waitPost)
      (ht : u.t = 2 * s.params.nHalf + 2 - r) (hc : u.clock = .L) (ha : Shifted d (8 * (k / 8)) (k % 8 + 1) u.acc)
  | clkHi (hr : r = 2 * s.params.nHalf + 2) (hp : u.ph = Ph.clkHi) (ht : u.t = 1) (hc : u.clock = .L)
      (ha : Shifted d (8 * (k / 8)) (k % 8 + 1) u.acc)

/-- What the whole of bit `k` leaves alone. -/
structure Acq.BitFrame (u : State) (a : Level) (d : Nat → Level) (k : Nat) : Prop where
  latch : u.latch = .L
  auxs : u.auxs = a
  byte : u.byte = BitVec.ofNat 1 (k / 8)
  bit : u.bit = BitVec.ofNat 3 (k % 8)
  s0 : 8 ≤ k → u.s0 = (acquisition a (levels d)).b0

/-- What `u` holds `n` ticks after `s` stood in LATCH_HI, `a` and `d` being the levels sampled. -/
inductive Acq.Standing (s u : State) (a : Level) (d : Nat → Level) (n : Nat) : Prop
  | latchHi (hn : n = 0) (hp : u.ph = Ph.latchHi) (hl : s.latch = .L → u.latch = .L) (hc : s.clock = .H → u.clock = .H)
  | waitLatch (hn : 1 ≤ n) (hn' : n ≤ s.params.nLatch) (hp : u.ph = Ph.waitLatch) (ht : u.t = s.params.nLatch + 1 - n)
      (hl : u.latch = .H) (hc : s.clock = .H → u.clock = .H)
  | latchLo (hn : n = s.params.nLatch + 1) (hp : u.ph = Ph.latchLo) (hl : u.latch = .H)
      (hc : s.clock = .H → u.clock = .H)
  | auxSample (hn : n = s.params.nLatch + 2) (hp : u.ph = Ph.auxSample) (hl : u.latch = .L)
      (hc : s.clock = .H → u.clock = .H)
  | bit (k r : Nat) (hk : k < 16) (hr : r < 2 * s.params.nHalf + 3)
      (hn : n = bitStart s.params.nHalf s.params.nLatch k + r) (hf : BitFrame u a d k) (hi : InBit s u d k r)
  | storeFirst (hn : n = bitStart s.params.nHalf s.params.nLatch 7 + (2 * s.params.nHalf + 3)) (hp : u.ph = Ph.store)
      (hy : u.byte = 0) (hl : u.latch = .L) (hc : u.clock = .H) (hx : u.auxs = a)
      (ha : u.acc = (acquisition a (levels d)).b0)
  | storeSecond (hn : n = bitStart s.params.nHalf s.params.nLatch 15 + (2 * s.params.nHalf + 3)) (hp : u.ph = Ph.store)
      (hf : BitFrame u a d 15) (ht : u.t = 1) (hc : u.clock = .H) (ha : u.acc = (acquisition a (levels d)).b1)
  | commit (hn : n = bitStart s.params.nHalf s.params.nLatch 15 + (2 * s.params.nHalf + 3) + 1) (hp : u.ph = Ph.commit)
      (hf : BitFrame u a d 15) (ht : u.t = 1) (hc : u.clock = .H) (h1 : u.s1 = (acquisition a (levels d)).b1)
      (ha : u.acc = (acquisition a (levels d)).b1)

section

variable {s u : State} {a : Level} {d : Nat → Level} {n : Nat}

/-- `BIT` is 7 exactly in the last bit of a byte. -/
theorem Acq.BitFrame.bit_eq_seven {k : Nat} (hf : BitFrame u a d k) : u.bit = 7 ↔ k % 8 = 7 := by
  rw [hf.bit]
  have : k % 8 < 8 := Nat.mod_lt _ (by omega)
  refine ⟨fun h => ?_, fun h => by rw [h]; rfl⟩
  have := congrArg BitVec.toNat h
  simp at this
  omega

/-- A tick of bit `k` keeps the description. -/
theorem Acq.InBit.step {k r : Nat} (hV : s.params.Valid) (F : Frame s u n) (hk : k < 16)
    (hr : r < 2 * s.params.nHalf + 3) (hn : n = bitStart s.params.nHalf s.params.nLatch k + r) (hf : BitFrame u a d k)
    (hi : InBit s u d k r) (hrst : u.port.rst = false)
    (hd : n = bitStart s.params.nHalf s.params.nLatch k + s.params.nHalf + 1 → d k = u.pinReadData) :
    ∃ v, Machine.step u = .next v ∧ Frame s v (n + 1) ∧ Standing s v a d (n + 1) := by
  have hV' : u.params.Valid := F.params ▸ hV
  have hfit : s.params.nHalf < 2 ^ u.params.wT := by rw [F.params]; exact nHalf_fits hV
  have hH : 1 ≤ s.params.nHalf := hV.2.2.2.1
  have hf' := hf
  obtain ⟨f1, f2, f3, f4, f5⟩ := hf
  cases hi with
  | waitPre h1 hp ht hc ha =>
    have hst := step_waitPre hrst hp hV'
    rw [State.waitTick_of_fits (by omega)] at hst
    split at hst
    · exact ⟨_, hst, F.tick rfl rfl rfl rfl rfl rfl rfl rfl rfl, .bit k (r + 1) hk (by omega) (by omega)
        ⟨f1, f2, f3, f4, f5⟩ (.waitPre (by omega) hp (by show u.t - 1 = _; omega) hc ha)⟩
    · exact ⟨_, hst, F.tick rfl rfl rfl rfl rfl rfl rfl rfl rfl, .bit k (r + 1) hk (by omega) (by omega)
        ⟨f1, f2, f3, f4, f5⟩ (.clkLo (by omega) rfl hc ha)⟩
  | clkLo h1 hp hc ha =>
    exact ⟨_, step_clkLo hrst hp hV', F.tick rfl rfl rfl rfl rfl rfl rfl rfl rfl, .bit k (r + 1) hk (by omega) (by omega)
      ⟨f1, f2, f3, f4, f5⟩ (.dataSample (by omega) rfl rfl ha)⟩
  | dataSample h1 hp hc ha =>
    refine ⟨_, step_dataSample hrst hp hV', F.tick rfl rfl rfl rfl rfl rfl rfl rfl rfl,
      .bit k (r + 1) hk (by omega) (by omega) ⟨f1, f2, f3, f4, f5⟩ (.waitPost (by omega) (by omega) rfl ?_ hc ?_)⟩
    · show u.params.nHalf = _
      rw [F.params]
      omega
    · show Shifted d (8 * (k / 8)) (k % 8 + 1) (shiftIn u.acc (inverted u.pinReadData))
      have : d (8 * (k / 8) + k % 8) = u.pinReadData := by rw [Nat.div_add_mod]; exact hd (by omega)
      rw [← this]
      exact ha.push (Nat.mod_lt _ (by omega))
  | waitPost h1 h2 hp ht hc ha =>
    have hst := step_waitPost hrst hp hV'
    rw [State.waitTick_of_fits (by omega)] at hst
    split at hst
    · exact ⟨_, hst, F.tick rfl rfl rfl rfl rfl rfl rfl rfl rfl, .bit k (r + 1) hk (by omega) (by omega)
        ⟨f1, f2, f3, f4, f5⟩ (.waitPost (by omega) (by omega) hp (by show u.t - 1 = _; omega) hc ha)⟩
    · exact ⟨_, hst, F.tick rfl rfl rfl rfl rfl rfl rfl rfl rfl, .bit k (r + 1) hk (by omega) (by omega)
        ⟨f1, f2, f3, f4, f5⟩ (.clkHi (by omega) rfl (by show u.t = 1; omega) hc ha)⟩
  | clkHi h1 hp ht hc ha =>
    by_cases hb : u.bit = 7
    · have hk7 : k = 7 ∨ k = 15 := by have := hf'.bit_eq_seven.1 hb; omega
      rcases hk7 with rfl | rfl
      · exact ⟨_, step_clkHi_last hrst hp hV' hb, F.tick rfl rfl rfl rfl rfl rfl rfl rfl rfl,
          .storeFirst (by omega) rfl f3 f1 rfl f2 ha.b0_eq⟩
      · exact ⟨_, step_clkHi_last hrst hp hV' hb, F.tick rfl rfl rfl rfl rfl rfl rfl rfl rfl,
          .storeSecond (by omega) rfl ⟨f1, f2, f3, f4, f5⟩ ht rfl ha.b1_eq⟩
    · have hk7 : k % 8 ≠ 7 := fun h => hb (hf'.bit_eq_seven.2 h)
      have h8 : (k + 1) / 8 = k / 8 := by omega
      have hm : (k + 1) % 8 = k % 8 + 1 := by omega
      refine ⟨_, step_clkHi_next hrst hp hV' hb, F.tick rfl rfl rfl rfl rfl rfl rfl rfl rfl,
        .bit (k + 1) 0 (by omega) (by omega) ?_ ⟨f1, f2, ?_, ?_, fun h => f5 (by omega)⟩
          (.waitPre hH rfl ?_ (fun _ => rfl) ?_)⟩
      · rw [bitStart, if_neg (by omega)]
        omega
      · show u.byte = _
        rw [f3, h8]
      · show u.bit + 1 = _
        rw [f4, hm]
        simp [BitVec.ofNat_add]
      · show u.params.nHalf = _
        rw [F.params]
        rfl
      · rw [h8, hm]
        exact ha

/-- Every tick of an acquisition but the last keeps the description. -/
theorem Acq.Standing.step (hV : s.params.Valid) (F : Frame s u n) (h : Standing s u a d n)
    (hrst : (s.portAt n).rst = false)
    (hn : n ≤ bitStart s.params.nHalf s.params.nLatch 15 + (2 * s.params.nHalf + 3))
    (ha : n = s.params.nLatch + 2 → a = s.auxLevelAt s.cfg n)
    (hd : ∀ k, k < 16 → n = bitStart s.params.nHalf s.params.nLatch k + s.params.nHalf + 1 → d k = s.dataLevelAt s.cfg n) :
    ∃ v, Machine.step u = .next v ∧ Frame s v (n + 1) ∧ Standing s v a d (n + 1) := by
  have hpo : u.port = s.portAt n := by unfold State.port State.portAt; rw [F.inputs]
  have hu : u.port.rst = false := hpo ▸ hrst
  have hV' : u.params.Valid := F.params ▸ hV
  have hL : 1 ≤ s.params.nLatch := hV.2.2.1
  have hH : 1 ≤ s.params.nHalf := hV.2.2.2.1
  have hfit : s.params.nLatch < 2 ^ u.params.wT := by rw [F.params]; exact nLatch_fits hV
  cases h with
  | latchHi h1 hp hl hc =>
    refine ⟨_, step_latchHi hu hp hV', F.tick rfl rfl rfl rfl rfl rfl rfl rfl rfl,
      .waitLatch (by omega) (by omega) rfl ?_ rfl hc⟩
    show u.params.nLatch = _
    rw [F.params]
    omega
  | waitLatch h1 h2 hp ht hl hc =>
    have hst := step_waitLatch hu hp hV'
    rw [State.waitTick_of_fits (by omega)] at hst
    split at hst
    · exact ⟨_, hst, F.tick rfl rfl rfl rfl rfl rfl rfl rfl rfl,
        .waitLatch (by omega) (by omega) hp (by show u.t - 1 = _; omega) hl hc⟩
    · exact ⟨_, hst, F.tick rfl rfl rfl rfl rfl rfl rfl rfl rfl, .latchLo (by omega) rfl hl hc⟩
  | latchLo h1 hp hl hc =>
    exact ⟨_, step_latchLo hu hp hV', F.tick rfl rfl rfl rfl rfl rfl rfl rfl rfl, .auxSample (by omega) rfl rfl hc⟩
  | auxSample h1 hp hl hc =>
    refine ⟨_, step_auxSample hu hp hV', F.tick rfl rfl rfl rfl rfl rfl rfl rfl rfl,
      .bit 0 0 (by omega) (by omega) (by rw [bitStart]; omega) ⟨hl, ?_, rfl, rfl, by omega⟩
        (.waitPre hH rfl ?_ (fun h => hc (by simpa using h)) fun j hj => by omega)⟩
    · show u.pinReadAux = a
      rw [ha h1, State.pinReadAux, State.auxLevelAt, State.auxPue, hpo, F.cfg, F.draw]
    · show u.params.nHalf = _
      rw [F.params]
      rfl
  | bit k r hk hr h1 hf hi =>
    refine hi.step hV F hk hr h1 hf hu fun h => ?_
    rw [hd k hk h, State.dataLevelAt, State.pinReadData, State.dataPue, hpo, F.cfg, F.draw]
  | storeFirst h1 hp hy hl hc hx hacc =>
    refine ⟨_, step_store_first hu hp hV' hy, F.tick rfl rfl rfl rfl rfl rfl rfl rfl rfl,
      .bit 8 0 (by omega) (by omega) ?_ ⟨hl, hx, rfl, rfl, fun _ => hacc⟩
        (.waitPre hH rfl ?_ (fun _ => hc) fun j hj => by omega)⟩
    · rw [h1]
      rfl
    · show u.params.nHalf = _
      rw [F.params]
      rfl
  | storeSecond h1 hp hf ht hc hacc =>
    obtain ⟨f1, f2, f3, f4, f5⟩ := hf
    exact ⟨_, step_store_second hu hp hV' f3, F.tick rfl rfl rfl rfl rfl rfl rfl rfl rfl,
      .commit (by omega) rfl ⟨f1, f2, f3, f4, f5⟩ ht hc hacc hacc⟩
  | commit h1 => omega

/-- Where the block stands in every tick from LATCH_HI to COMMIT, as long as no reset has come. -/
theorem Acq.run_standing (hV : s.params.Valid) (hs : s.ph = Ph.latchHi) (n : Nat) (hrst : s.NoReset n)
    (ha : a = s.auxLevelAt s.cfg (s.params.nLatch + 2))
    (hd : ∀ k, k < 16 →
      d k = s.dataLevelAt s.cfg (bitStart s.params.nHalf s.params.nLatch k + s.params.nHalf + 1))
    (hn : n ≤ bitStart s.params.nHalf s.params.nLatch 15 + (2 * s.params.nHalf + 3) + 1) :
    ∃ u, run n s = .next u ∧ Frame s u n ∧ Standing s u a d n := by
  induction n with
  | zero => exact ⟨s, rfl, .refl s, .latchHi rfl hs id id⟩
  | succ n ih =>
    obtain ⟨u, hu, F, h⟩ := ih (hrst.mono (Nat.le_succ n)) (by omega)
    obtain ⟨v, hv, F', h'⟩ :=
      h.step hV F (hrst n (Nat.lt_succ_self n)) (by omega) (fun e => e ▸ ha) fun k hk e => e ▸ hd k hk
    exact ⟨v, by rw [run_add hu 1, run_succ hv]; rfl, F', h'⟩

/-- The commit tick is the only one in which the block stands in COMMIT. -/
theorem Acq.Standing.at_commit
    (h : Standing s u a d (bitStart s.params.nHalf s.params.nLatch 15 + (2 * s.params.nHalf + 3) + 1)) :
    u.ph = Ph.commit ∧ BitFrame u a d 15 ∧ u.t = 1 ∧ u.clock = .H ∧ u.s1 = (acquisition a (levels d)).b1 ∧
      u.acc = (acquisition a (levels d)).b1 := by
  have h15 := bitStart_fifteen s.params.nHalf s.params.nLatch
  have h7 := bitStart_lt s.params.nHalf s.params.nLatch (show 7 < 15 by omega)
  cases h with
  | commit _ hp hf ht hc h1 ha => exact ⟨hp, hf, ht, hc, h1, ha⟩
  | bit k r hk hr hn => have := bitStart_mono s.params.nHalf s.params.nLatch (show k ≤ 15 by omega); omega
  | latchHi hn | waitLatch _ hn | latchLo hn | auxSample hn | storeFirst hn | storeSecond hn => omega

end

end Sys2Proof.Machine
end

