-- ==== Sys2Proof/Laws/Commands.lean ====
section
/-! SUPPORT. The host commands: what each word decodes to, and that CHANGED and DECODE are their operations. -/

namespace Sys2Proof.Machine

/-- What each operation number decodes to (30_encoding.md R81). -/
theorem decodeCommand_of_op (w : BitVec 3) :
    (cmdOp w = Op.init → decodeCommand w = .init (cmdD w)) ∧
    (cmdOp w = Op.acquire → decodeCommand w = .acquire (cmdD w)) ∧
    (cmdOp w = Op.changed → decodeCommand w = .changed (cmdD w)) ∧
    (cmdOp w = Op.decode → decodeCommand w = .decode (cmdD w)) := by
  revert w; decide

/-- There is no fifth operation number. -/
theorem cmdOp_cases (w : BitVec 3) :
    cmdOp w = Op.init ∨ cmdOp w = Op.acquire ∨ cmdOp w = Op.changed ∨ cmdOp w = Op.decode := by
  revert w; decide

/-- `changed` is the inequality of the two samples. -/
theorem State.changed_eq_decide (s : State) : s.changed = !decide (s.lr = s.lp) := by
  obtain ⟨⟨a, b, c⟩, ⟨a', b', c'⟩, _⟩ := s
  simp only [State.changed, RawSample.mk.injEq, Bool.decide_and, Bool.not_and, bne, ← Bool.or_assoc]
  rfl

theorem State.changed_iff (s : State) : s.changed = true ↔ s.lr ≠ s.lp := by
  rw [s.changed_eq_decide]; by_cases h : s.lr = s.lp <;> simp [h]

/-- CHANGED at the tick level is CHANGED at the operation level. -/
theorem exec_changed_eq (d : Bool) (s : State) : exec (.changed d) s = .next (opChanged s) := by
  have : zext8 s.changed = if s.lr = s.lp then 0x00 else 0x01 := by
    rw [s.changed_eq_decide]; by_cases h : s.lr = s.lp <;> simp [h, zext8]
  simp only [exec, execChanged, State.writeRet, this, opChanged]

/-- DECODE at the tick level is DECODE at the operation level. -/
theorem exec_decode_eq (d : Bool) (s : State) : exec (.decode d) s = .next (opDecode d s) := by
  cases d <;> rfl

@[simp] theorem opChanged_lr (s : State) : (opChanged s).lr = s.lr := rfl
@[simp] theorem opChanged_lp (s : State) : (opChanged s).lp = s.lp := rfl
@[simp] theorem opDecode_lr (d : Bool) (s : State) : (opDecode d s).lr = s.lr := by cases d <;> rfl
@[simp] theorem opDecode_lp (d : Bool) (s : State) : (opDecode d s).lp = s.lr := by cases d <;> rfl

/-- What a tick with `rst` low can be: the rule of a phase, an idle tick, or one of the four accepted commands. -/
theorem step_tick_cases {s t : State} (h : step s = .next t) (hr : s.port.rst = false) :
    (s.ph ≠ Ph.idle ∧ ∃ u, exec (decodePhase s.ph) s = .next u ∧ t = u.endTick) ∨
    (s.ph = Ph.idle ∧ s.port.cmdValid = false ∧ t = s.endTick) ∨
    (s.ph = Ph.idle ∧ s.port.cmdValid = true ∧
      ((cmdOp s.port.cmd = Op.init ∧ t = (s.goto Ph.config).endTick) ∨
       (cmdOp s.port.cmd = Op.acquire ∧ t = (s.goto Ph.latchHi).endTick) ∨
       (cmdOp s.port.cmd = Op.changed ∧ t = (opChanged s).endTick) ∨
       (cmdOp s.port.cmd = Op.decode ∧ t = (opDecode (cmdD s.port.cmd) s).endTick))) := by
  rcases step_cases h with ⟨h1, -⟩ | ⟨-, u, hu, rfl⟩
  · exact absurd h1 (by simp [hr])
  by_cases hp : s.ph = Ph.idle
  · cases hv : s.port.cmdValid with
    | false =>
      rw [State.fetchWord_quiet hv, hp] at hu
      obtain rfl := Host.Outcome.next.inj hu
      exact .inr (.inl ⟨hp, rfl, rfl⟩)
    | true =>
      rw [State.fetchWord_command hp hv] at hu
      change exec (decodeCommand s.port.cmd) s = .next u at hu
      obtain ⟨hi, ha, hc, hd⟩ := decodeCommand_of_op s.port.cmd
      refine .inr (.inr ⟨hp, rfl, ?_⟩)
      rcases cmdOp_cases s.port.cmd with ho | ho | ho | ho
      · rw [hi ho] at hu; obtain rfl := Host.Outcome.next.inj hu; exact .inl ⟨ho, rfl⟩
      · rw [ha ho] at hu; obtain rfl := Host.Outcome.next.inj hu; exact .inr (.inl ⟨ho, rfl⟩)
      · rw [hc ho, exec_changed_eq] at hu; obtain rfl := Host.Outcome.next.inj hu; exact .inr (.inr (.inl ⟨ho, rfl⟩))
      · rw [hd ho, exec_decode_eq] at hu; obtain rfl := Host.Outcome.next.inj hu; exact .inr (.inr (.inr ⟨ho, rfl⟩))
  · rw [State.fetchWord_busy hp] at hu
    exact .inl ⟨hp, u, hu, rfl⟩

end Sys2Proof.Machine
end

