-- ==== Sys2Proof/Laws/PerInstr.lean ====
section
/-! SUPPORT. Facts about every instruction as syntax, one lemma for each constructor. -/

namespace Sys2Proof

/-- How many bits a word of the format has. -/
def Laws.formatWidth : Format → Nat
  | .cmd => 3
  | .phase => 4

/-- The word of the instruction fits its format: as a byte it has no bit at or above the format's width. -/
abbrev Laws.EncodeFits.Statement (i : Instr) : Prop :=
  (encodeByte i).toNat < 2 ^ Laws.formatWidth (encode i).format

theorem Laws.EncodeFits.init (d : Bool) : Laws.EncodeFits.Statement (.init d) := by cases d <;> decide
theorem Laws.EncodeFits.acquire (d : Bool) : Laws.EncodeFits.Statement (.acquire d) := by cases d <;> decide
theorem Laws.EncodeFits.changed (d : Bool) : Laws.EncodeFits.Statement (.changed d) := by cases d <;> decide
theorem Laws.EncodeFits.decode (d : Bool) : Laws.EncodeFits.Statement (.decode d) := by cases d <;> decide
theorem Laws.EncodeFits.idle : Laws.EncodeFits.Statement .idle := by decide
theorem Laws.EncodeFits.config : Laws.EncodeFits.Statement .config := by decide
theorem Laws.EncodeFits.latchHi : Laws.EncodeFits.Statement .latchHi := by decide
theorem Laws.EncodeFits.waitLatch : Laws.EncodeFits.Statement .waitLatch := by decide
theorem Laws.EncodeFits.latchLo : Laws.EncodeFits.Statement .latchLo := by decide
theorem Laws.EncodeFits.auxSample : Laws.EncodeFits.Statement .auxSample := by decide
theorem Laws.EncodeFits.waitPre : Laws.EncodeFits.Statement .waitPre := by decide
theorem Laws.EncodeFits.clkLo : Laws.EncodeFits.Statement .clkLo := by decide
theorem Laws.EncodeFits.dataSample : Laws.EncodeFits.Statement .dataSample := by decide
theorem Laws.EncodeFits.waitPost : Laws.EncodeFits.Statement .waitPost := by decide
theorem Laws.EncodeFits.clkHi : Laws.EncodeFits.Statement .clkHi := by decide
theorem Laws.EncodeFits.store : Laws.EncodeFits.Statement .store := by decide
theorem Laws.EncodeFits.commit : Laws.EncodeFits.Statement .commit := by decide
theorem Laws.EncodeFits.reserved13 : Laws.EncodeFits.Statement .reserved13 := by decide
theorem Laws.EncodeFits.reserved14 : Laws.EncodeFits.Statement .reserved14 := by decide
theorem Laws.EncodeFits.reserved15 : Laws.EncodeFits.Statement .reserved15 := by decide

end Sys2Proof
end

