-- ==== Sys2Proof/Tests/Slice0.lean ====
section
/-! SUPPORT. The model's own tests: the ill-formed terms WellFormed refuses, words written out from the spec's encodings,
single steps with the results of spec/95_test_vectors.md, and for every statement with hypotheses a state that meets
them. -/

namespace Sys2Proof.Machine

open Sys2Proof.Config (Params)

/-! ### Helpers -/

/-- A tick with a command word at the port and both lines driven high. -/
def Test.cmd (w : BitVec 3) : TickInput :=
  { rst := false, cmdValid := true, cmd := w, data := .driven .H, aux := .driven .H }

/-- A tick with the two lines driven and no command. -/
def Test.lines (data aux : Level) : TickInput :=
  { rst := false, cmdValid := false, cmd := 0, data := .driven data, aux := .driven aux }

/-- A tick with `rst` high, a command presented as well. -/
def Test.rst : TickInput := { rst := true, cmdValid := true, cmd := 0b111, data := .driven .L, aux := .driven .L }

/-- A configured block in phase `p` with the given ports in this tick, otherwise as after reset. -/
def Test.at (p : BitVec 4) (i : TickInput) : State := { State.reset with cfg := 0b1111, ph := p, inputs := [i] }

/-- A configured idle block holding two samples. -/
def Test.holding (r q : RawSample) : State := { State.reset with cfg := 0b1111, lr := r, lp := q }

/-- The state after one step. -/
def Test.next (s : State) : State :=
  match step s with
  | .next t => t
  | .fault _ => s
  | .refused _ => s

/-- The state after one instruction. -/
def Test.ran (i : Instr) (s : State) : State :=
  match exec i s with
  | .next t => t
  | .fault _ => s
  | .refused _ => s

/-- Sixteen levels in wire order from two bytes of complemented bits, the first level in bit 7 of `hi`. -/
def Test.wire (hi lo : Byte) : Fin 16 → Level := fun k =>
  if (hi ++ lo).getLsbD (15 - k.val) then .L else .H

/-- The reference configuration is admissible. -/
theorem Test.valid : Config.reference.Valid := by decide

theorem Test.step_next {s : State} (hv : s.params.Valid) : step s = .next (Test.next s) := by
  unfold Test.next
  cases h : step s with
  | next t => rfl
  | fault f => cases f
  | refused r =>
    exfalso
    rw [step_eq_tick hv, tick] at h
    split at h
    · cases h
    · generalize decodeWord s.fetchWord = i at h
      cases i <;> simp only [exec, execInit, execAcquire, execChanged, execDecode, execIdle, execConfig, execLatchHi,
        execWaitLatch, execLatchLo, execAuxSample, execWaitPre, execClkLo, execDataSample, execWaitPost, execClkHi,
        execStore, execCommit, execReserved13, execReserved14, execReserved15] at h <;> (try split at h) <;> cases h

/-- No reset comes where the listed inputs hold none. -/
theorem Test.noReset {s : State} (h : ∀ i ∈ s.inputs, i.rst = false) (n : Nat) : s.NoReset n := by
  intro k _
  unfold State.portAt
  cases hd : s.inputs.drop k with
  | nil => rfl
  | cons i rest =>
    have : i ∈ s.inputs.drop k := by rw [hd]; exact List.mem_cons_self
    exact h i (List.mem_of_mem_drop this)

/-! ### WellFormed: an ill-formed term for each check (R83, R145), and what it accepts -/

theorem test_wf_init_d : (Instr.init true).wellFormed = false := by decide
theorem test_wf_acquire_d : (Instr.acquire true).wellFormed = false := by decide
theorem test_wf_changed_d : (Instr.changed true).wellFormed = false := by decide
theorem test_wf_reserved13 : Instr.reserved13.wellFormed = false := by decide
theorem test_wf_reserved14 : Instr.reserved14.wellFormed = false := by decide
theorem test_wf_reserved15 : Instr.reserved15.wellFormed = false := by decide
theorem test_wf_accepts : (Instr.decode true).wellFormed = true ∧ (Instr.init false).wellFormed = true := by decide

/-! ### Words written out bit by bit -/

/-- R81: op `00`, `01`, `10`, `11` below `d`. -/
theorem test_decode_commands : decodeCommand 0b000 = .init false ∧ decodeCommand 0b001 = .acquire false ∧
    decodeCommand 0b010 = .changed false ∧ decodeCommand 0b011 = .decode false ∧ decodeCommand 0b100 = .init true ∧
    decodeCommand 0b101 = .acquire true ∧ decodeCommand 0b110 = .changed true ∧ decodeCommand 0b111 = .decode true := by
  decide

/-- R94, values 0 to 7. -/
theorem test_decode_phases_low : decodePhase 0b0000 = .idle ∧ decodePhase 0b0001 = .config ∧
    decodePhase 0b0010 = .latchHi ∧ decodePhase 0b0011 = .waitLatch ∧ decodePhase 0b0100 = .latchLo ∧
    decodePhase 0b0101 = .auxSample ∧ decodePhase 0b0110 = .waitPre ∧ decodePhase 0b0111 = .clkLo := by decide

/-- R94, values 8 to 15. -/
theorem test_decode_phases_high : decodePhase 0b1000 = .dataSample ∧ decodePhase 0b1001 = .waitPost ∧
    decodePhase 0b1010 = .clkHi ∧ decodePhase 0b1011 = .store ∧ decodePhase 0b1100 = .commit ∧
    decodePhase 0b1101 = .reserved13 ∧ decodePhase 0b1110 = .reserved14 ∧ decodePhase 0b1111 = .reserved15 := by decide

/-- Bits above the format's width are refused by name. -/
theorem test_stray_bits : decodeBytes .cmd [0b00001000] = .error .strayBits ∧
    decodeBytes .phase [0b00010000] = .error .strayBits ∧ decodeBytes .cmd [] = .error .noByte := by
  refine ⟨rfl, rfl, rfl⟩

/-- The table's words at each of its widths (log 9). -/
theorem test_table_words : decodeTableWord 3 0b001 = some (.acquire false) ∧ decodeTableWord 4 0b0001 = some .config ∧
    decodeTableWord 8 0b011 = some (.decode false) ∧ decodeTableWord 8 12 = some .commit ∧
    decodeTableWord 8 15 = some .reserved15 ∧ decodeTableWord 8 16 = none := by decide

/-- R92's lines and their words. -/
theorem test_text_words : textCommand "INIT" = some 0b000 ∧ textCommand "ACQUIRE" = some 0b001 ∧
    textCommand "CHANGED" = some 0b010 ∧ textCommand "DECODE null" = some 0b011 ∧
    textCommand "DECODE rpt" = some 0b111 ∧ textCommand "POLL" = none := by
  refine ⟨rfl, rfl, rfl, rfl, rfl, rfl⟩

/-- A placed word runs in the next step: ACQUIRE goes to LATCH_HI (group E), STORE to WAIT_PRE (R143). -/
theorem test_placed_words : (Test.next (State.reset.withFetchWord 8 0b001)).ph = Ph.latchHi ∧
    (Test.next (State.reset.withFetchWord 8 11)).ph = Ph.waitPre := by decide

/-! ### Commands (95_test_vectors.md groups E, C, D, R) -/

/-- Group E, the word and its reserved twin. -/
theorem test_init_next_phase : (Test.next (Test.at Ph.idle (Test.cmd 0b000))).ph = 1 ∧
    (Test.next (Test.at Ph.idle (Test.cmd 0b100))).ph = 1 := by decide
/-- Group E, the word and its reserved twin. -/
theorem test_acquire_next_phase : (Test.next (Test.at Ph.idle (Test.cmd 0b001))).ph = 2 ∧
    (Test.next (Test.at Ph.idle (Test.cmd 0b101))).ph = 2 := by decide
/-- VC6: bytes are compared index by index. -/
theorem test_changed_vc6 : (Test.ran (.changed false) (Test.holding ⟨0x01, 0x00, 0x00⟩ ⟨0x00, 0x01, 0x00⟩)).ret = 0x01 := by
  decide
/-- VC8. -/
theorem test_changed_vc8 : (Test.ran (.changed true) (Test.holding ⟨0x12, 0x34, 0x01⟩ ⟨0x12, 0x34, 0x01⟩)).ret = 0x00 := by
  decide
/-- VD3. -/
theorem test_decode_vd3 :
    (Test.ran (.decode true) (Test.holding ⟨0xA5, 0x3F, 0x01⟩ ⟨0, 0, 0⟩)).rpt.flatten = 0x13FA5A53F01 := by decide
/-- VD2. -/
theorem test_decode_vd2 :
    (Test.ran (.decode true) (Test.holding ⟨0xA5, 0x3E, 0x01⟩ ⟨0, 0, 0⟩)).rpt.flatten = 0x000A5A50100 := by decide
/-- Priority, R216: a reset wins over a presented DECODE; VR1. -/
theorem test_reset_wins : Test.next (Test.at Ph.dataSample Test.rst) = { State.reset with draw := 1 } := by decide

/-! ### The operation level (groups A and I) -/

/-- VA3: `a=L d=LHHLHHHH HHHHLLLL`. -/
theorem test_acquisition_va3 : acquisition .L (Test.wire 0b10010000 0b00001111) = ⟨0x90, 0x0F, 0x01⟩ := by decide
/-- VA9: `a=H d=LHLHHLHL HHLLLLLH`. -/
theorem test_acquisition_va9 : acquisition .H (Test.wire 0b10100101 0b00111110) = ⟨0xA5, 0x3E, 0x00⟩ := by decide
/-- VI2: the configuration and the sample, and no baseline. -/
theorem test_init_vi2 : let t := opInit .L (Test.wire 0b00010000 0b00001111) State.reset
    t.cfg = 0b1111 ∧ t.lr = ⟨0x10, 0x0F, 0x01⟩ ∧ t.lp = ⟨0, 0, 0⟩ ∧ t.changed = true ∧ t.mode = .snes := by decide

/-! ### The sequencer (program P5: rows of its trace, and the rules) -/

/-- P5's configuration, `N_LATCH = 2` and `N_HALF = 1`, in one of its rows. -/
def Test.p5 (ph : BitVec 4) (latch clock : Level) (t : Nat) (byte : BitVec 1) (bit : BitVec 3) (acc : Byte)
    (i : TickInput) : State :=
  { State.resetWith { nLatch := 2, nHalf := 1, tClkNum := 6, tClkDen := 1, wT := 2 } with
    cfg := 0b1111, ph := ph, latch := latch, clock := clock, t := t, byte := byte, bit := bit, acc := acc, auxs := .H,
    inputs := [i] }

/-- U22: a configuration 12 ns short of the 12 µs, with a counter too narrow for `N_LATCH`, or with `N_LATCH = 0`, is
refused, a reset presented or not; the shortest admissible one runs. -/
theorem test_inadmissible_parameters :
    (∀ p ∈ [Params.mk 12 12 999 1000 4, Params.mk 12 6 1 1 3, Params.mk 0 1 12 1 1], ∀ i ∈ [Test.rst, Test.cmd 0b001],
      step { State.resetWith p with inputs := [i] } = .refused .inadmissibleParameters) ∧
    (Test.next { State.resetWith (Params.mk 1 1 12 1 1) with inputs := [Test.cmd 0b001] }).ph = 2 :=
  ⟨fun p _ _ _ => step_inadmissible (by show ¬ p.Valid; revert p; decide), by decide⟩
/-- R132: nothing changes. -/
theorem test_idle_no_command : Test.next (Test.at Ph.idle (Test.lines .L .L)) =
    { Test.at Ph.idle (Test.lines .L .L) with inputs := [], draw := 1 } := by decide
/-- R111 from a state with neither line idle. -/
theorem test_config : let t := Test.ran .config { State.reset with latch := .H, clock := .L }
    t.cfg = 0b1111 ∧ t.latch = .L ∧ t.clock = .H ∧ t.ph = 2 := by decide
/-- Tick 1 of P5. -/
theorem test_latchHi_p5 : let t := Test.next (Test.p5 2 .L .H 1 1 7 0 (Test.lines .H .H))
    t.ph = 3 ∧ t.latch = .H ∧ t.t = 2 := by decide
/-- Ticks 2 and 3 of P5. -/
theorem test_waitLatch_p5 : (Test.next (Test.p5 3 .H .H 2 1 7 0 (Test.lines .H .H))).t = 1 ∧
    (Test.next (Test.p5 3 .H .H 1 1 7 0 (Test.lines .H .H))).ph = 4 := by decide
/-- Tick 4 of P5. -/
theorem test_latchLo_p5 : let t := Test.next (Test.p5 4 .H .H 1 1 7 0 (Test.lines .H .H))
    t.ph = 5 ∧ t.latch = .L := by decide
/-- Tick 5 of P5: the level is kept raw, and the loop counters are cleared. -/
theorem test_auxSample_p5 : let t := Test.next (Test.p5 5 .L .H 1 1 7 0 (Test.lines .H .L))
    t.ph = 6 ∧ t.auxs = .L ∧ t.byte = 0 ∧ t.bit = 0 ∧ t.t = 1 := by decide
/-- Tick 6 of P5. -/
theorem test_waitPre_p5 : (Test.next (Test.p5 6 .L .H 1 0 0 0 (Test.lines .H .H))).ph = 7 := by decide
/-- Tick 7 of P5. -/
theorem test_clkLo_p5 : let t := Test.next (Test.p5 7 .L .H 1 0 0 0 (Test.lines .H .H))
    t.ph = 8 ∧ t.clock = .L := by decide
/-- Tick 13 of P5, where DATA is H and a 0 enters at bit 0; tick 84, the last sample, where DATA is L. -/
theorem test_dataSample_p5 : (let t := Test.next (Test.p5 8 .L .L 1 0 1 0x01 (Test.lines .H .H));
      t.ph = 9 ∧ t.acc = 0x02 ∧ t.t = 1) ∧
    (Test.next (Test.p5 8 .L .L 1 1 7 0x07 (Test.lines .L .H))).acc = 0x0F := by decide
/-- Tick 9 of P5. -/
theorem test_waitPost_p5 : (Test.next (Test.p5 9 .L .L 1 0 0 0x01 (Test.lines .H .H))).ph = 10 := by decide
/-- Tick 10 of P5. -/
theorem test_clkHi_p5 : let t := Test.next (Test.p5 10 .L .L 1 0 0 0x01 (Test.lines .H .H))
    t.ph = 6 ∧ t.clock = .H ∧ t.bit = 1 := by decide
/-- Tick 46 of P5: byte 0 is kept, and the bit counter restarts. -/
theorem test_store_first_p5 : let t := Test.next (Test.p5 11 .L .H 1 0 7 0x90 (Test.lines .H .H))
    t.ph = 6 ∧ t.s0 = 0x90 ∧ t.byte = 1 ∧ t.bit = 0 := by decide
/-- Tick 87 of P5. -/
theorem test_store_second_p5 : let t := Test.next (Test.p5 11 .L .H 1 1 7 0x0F (Test.lines .H .H))
    t.ph = 12 ∧ t.s1 = 0x0F := by decide
/-- Tick 88 of P5. -/
theorem test_commit_p5 :
    let t := Test.ran .commit { Test.p5 12 .L .H 1 1 7 0x0F (Test.lines .H .H) with s0 := 0x90, s1 := 0x0F, auxs := .L }
    t.lr = ⟨0x90, 0x0F, 0x01⟩ ∧ t.ret = 0 ∧ t.ph = 0 := by decide
/-- R145. -/
theorem test_reserved_phases : ∀ i ∈ [Instr.reserved13, .reserved14, .reserved15],
    Test.ran i { State.reset with latch := .H, clock := .L, ph := 13 } = State.reset := by decide
/-- R67: an undriven line with its pull-up on reads H, so a 0 enters. -/
theorem test_undriven_pulled_up :
    let s : State :=
      { State.reset with cfg := 0b0100, acc := 0xFF, inputs := [{ TickInput.quiet with data := .undriven }] }
    (Test.ran .dataSample s).acc = 0xFE := by decide

/-! ### Witnesses: states that meet the hypotheses of the statements, clause by clause -/

theorem witness_decode_bytes : decodeBytes .cmd [0b111, 0xAB] = .ok (.decode true, [0xAB]) ∧
    decodeBytes .phase [0b1111] = .ok (.reserved15, []) := ⟨rfl, rfl⟩

/-- ReservedWordsRunAsUnreserved. -/
theorem witness_reserved_words : (Test.at Ph.idle (Test.cmd 0b110)).params.Valid ∧ Op.changed ≠ Op.decode ∧
    State.Accepts (Test.at Ph.idle (Test.cmd 0b110)) ((1 : BitVec 1) ++ Op.changed) ∧
    State.Accepts (Test.at Ph.idle (Test.cmd 0b010)) ((0 : BitVec 1) ++ Op.changed) ∧
    Test.at Ph.idle (Test.cmd 0b010) =
      { Test.at Ph.idle (Test.cmd 0b110) with inputs := (Test.at Ph.idle (Test.cmd 0b010)).inputs } ∧
    (Test.at Ph.idle (Test.cmd 0b010)).inputs.tail = (Test.at Ph.idle (Test.cmd 0b110)).inputs.tail := by
  refine ⟨Test.valid, by decide, ⟨rfl, rfl, rfl, rfl⟩, ⟨rfl, rfl, rfl, rfl⟩, rfl, rfl⟩

/-- StepRunsDecodedInstruction, one state for each clause. -/
theorem witness_step_runs : (∀ p i, (Test.at p i).params.Valid) ∧
    (State.Accepts (Test.at Ph.idle (Test.cmd 0b111)) 0b111 ∧
      ∃ t, exec (decodeCommand 0b111) (Test.at Ph.idle (Test.cmd 0b111)) = .next t) ∧
    ((Test.at Ph.commit (Test.cmd 0b111)).port.rst = false ∧ (Test.at Ph.commit (Test.cmd 0b111)).ph ≠ Ph.idle ∧
      ∃ t, exec (decodePhase Ph.commit) (Test.at Ph.commit (Test.cmd 0b111)) = .next t) ∧
    ((Test.at Ph.idle (Test.lines .H .H)).port.rst = false ∧ (Test.at Ph.idle (Test.lines .H .H)).port.cmdValid = false ∧
      ∃ t, exec (decodePhase Ph.idle) (Test.at Ph.idle (Test.lines .H .H)) = .next t) :=
  ⟨fun _ _ => Test.valid, ⟨⟨rfl, rfl, rfl, rfl⟩, _, rfl⟩, ⟨rfl, by decide, _, rfl⟩, rfl, rfl, _, rfl⟩

/-- ResetSetsEveryRegister and the reset clauses of the others: a reset in the middle of an acquisition (VR2). -/
theorem witness_reset : (Test.at Ph.waitPost Test.rst).params.Valid ∧
    (Test.at Ph.waitPost Test.rst).port.rst = true ∧
    step (Test.at Ph.waitPost Test.rst) = .next (Test.next (Test.at Ph.waitPost Test.rst)) :=
  ⟨Test.valid, rfl, Test.step_next Test.valid⟩

/-- PortsAfterReset, with three quiet ticks after the reset. -/
theorem witness_ports_after_reset :
    let s : State := { Test.at Ph.clkHi Test.rst with inputs := [Test.rst, Test.lines .L .L] }
    s.port.rst = true ∧ step s = .next (Test.next s) ∧
      ∀ k, k < 3 → ((Test.next s).portAt k).rst = false ∧ ((Test.next s).portAt k).cmdValid = false :=
  ⟨rfl, Test.step_next Test.valid, by decide⟩

/-- PriorityOfSimultaneousEvents: each of the four cases with everything below it true as well. -/
theorem witness_priority : State.reset.params.Valid ∧ (∀ p i, (Test.at p i).params = State.reset.params) ∧
    (Test.at Ph.store Test.rst).port.rst = true ∧
    ((Test.at Ph.store (Test.cmd 0b111)).port.rst = false ∧ (Test.at Ph.store (Test.cmd 0b111)).ph ≠ Ph.idle) ∧
    ((Test.at Ph.idle (Test.cmd 0b111)).port.rst = false ∧ (Test.at Ph.idle (Test.cmd 0b111)).port.cmdValid = true) ∧
    (State.reset.port.rst = false ∧ State.reset.ph = Ph.idle ∧ State.reset.port.cmdValid = false) :=
  ⟨Test.valid, fun _ _ => rfl, by decide⟩

/-- CommandWhileBusyIsLost, in the first and the last busy phase. -/
theorem witness_busy : (Test.at Ph.config (Test.cmd 0b111)).busy = true ∧ (Test.at Ph.commit (Test.cmd 0)).busy = true := by
  decide

/-- LinesIgnoredOutsideSampleTicks: the two sample phases lie outside each other. -/
theorem witness_lines_ignored : (Test.at Ph.auxSample (Test.lines .L .L)).ph ≠ Ph.dataSample ∧
    (Test.at Ph.dataSample (Test.lines .L .L)).ph ≠ Ph.auxSample := by decide

/-- IdleTickAcceptsCommand: a word for each operation, `d` set, and a tick with no command. -/
theorem witness_idle_tick : (∀ w ∈ [(0b100 : BitVec 3), 0b101, 0b110, 0b111],
      (Test.at Ph.idle (Test.cmd w)).params.Valid ∧ State.Accepts (Test.at Ph.idle (Test.cmd w)) w) ∧
    cmdOp 0b100 = 0b00 ∧ cmdOp 0b101 = 0b01 ∧ cmdOp 0b110 = 0b10 ∧ cmdOp 0b111 = 0b11 ∧
    (Test.at Ph.idle (Test.lines .H .H)).port.cmdValid = false := by
  simp only [State.Accepts, State.Presents]
  decide

/-- ChangedReturnsComparison: both words. -/
theorem witness_changed : (∀ i, (Test.at Ph.idle i).params.Valid) ∧
    State.Accepts (Test.at Ph.idle (Test.cmd 0b010)) 0b010 ∧
    State.Accepts (Test.at Ph.idle (Test.cmd 0b110)) 0b110 :=
  ⟨fun _ => Test.valid, ⟨rfl, rfl, rfl, rfl⟩, rfl, rfl, rfl, rfl⟩

/-- RepeatedChangedAgrees: a CHANGED, an idle tick, and the CHANGED asked about. -/
theorem witness_repeated_changed :
    let s : State := { Test.holding ⟨1, 0, 0⟩ ⟨0, 0, 0⟩ with inputs := [Test.cmd 0b010, TickInput.quiet, Test.cmd 0b110] }
    s.params.Valid ∧ s.ph = Ph.idle ∧ (∀ k, k ≤ 2 → (s.portAt k).rst = false) ∧
      (∀ k, k < 2 → (s.portAt k).cmdValid = false ∨ cmdOp (s.portAt k).cmd = Op.changed) ∧
      (s.portAt 2).cmdValid = true ∧ cmdOp (s.portAt 2).cmd = Op.changed := by decide

/-- DecodeWithDestinationWritesReport, ModeIsLowNibbleOfByteOne: nibble 15, and nibble 14. -/
theorem witness_modes : (Test.holding ⟨0, 0x0F, 0⟩ ⟨0, 0, 0⟩).lr.b1.toNat % 16 = 15 ∧
    (Test.holding ⟨0, 0xFE, 0⟩ ⟨0, 0, 0⟩).lr.b1.toNat % 16 ≠ 15 := by decide

/-- DecodeAlwaysCopiesBaseline, second clause: a DECODE that changes `LP`. -/
theorem witness_decode_copies :
    let s : State := { Test.holding ⟨1, 0, 0⟩ ⟨0, 0, 0⟩ with inputs := [Test.cmd 0b011] }
    s.port.rst = false ∧ step s = .next (Test.next s) ∧ (Test.next s).lp ≠ s.lp :=
  ⟨rfl, Test.step_next Test.valid, by decide⟩

/-- DecodeClearsChangedUntilCommit: an accepted DECODE; a COMMIT that sets `changed`; two DECODEs in a row. -/
theorem witness_decode_clears : (∀ i, (Test.at Ph.idle i).params.Valid) ∧
    State.Accepts (Test.at Ph.idle (Test.cmd 0b011)) 0b011 ∧ cmdOp 0b011 = Op.decode ∧
    (let s : State := { Test.at Ph.commit (Test.cmd 0) with s0 := 1 };
      step s = .next (Test.next s) ∧ s.changed = false ∧ (Test.next s).changed = true) ∧
    (let s := Test.holding ⟨1, 0x0F, 0⟩ ⟨0, 0, 0⟩;
      exec (.decode true) s = .next (Test.ran (.decode true) s) ∧ exec (.decode false) (Test.ran (.decode true) s) =
        .next (Test.ran (.decode false) (Test.ran (.decode true) s))) := by
  refine ⟨fun _ => Test.valid, ⟨rfl, rfl, rfl, rfl⟩, by decide, ⟨Test.step_next Test.valid, by decide, by decide⟩, rfl, rfl⟩

/-- ComparatorProperties, PollConsumesChange: equal samples, a sample other than `LP`, and one equal to it. -/
theorem witness_comparator : acquisition .H (Test.wire 0x80 0x0F) = acquisition .H (Test.wire 0x80 0x0F) ∧
    acquisition .L (Test.wire 0x00 0x0F) ≠ (Test.holding ⟨0, 0, 0⟩ ⟨0x00, 0x0F, 0x00⟩).lp ∧
    acquisition .H (Test.wire 0x00 0x0F) = (Test.holding ⟨0, 0, 0⟩ ⟨0x00, 0x0F, 0x00⟩).lp := by decide

/-- ModeOfLinePatterns, SnesMaskBits, AuxiliaryButtonInNoMask: all H, all L, and one H among L at each end. -/
theorem witness_line_patterns : modeOf (acquisition .H (Test.wire 0 0x00)).b1 = .nes ∧
    modeOf (acquisition .H (Test.wire 0 0x0F)).b1 = .snes ∧ modeOf (acquisition .L (Test.wire 0 0x07)).b1 = .nes ∧
    modeOf (acquisition .L (Test.wire 0 0x0E)).b1 = .nes ∧ (Test.wire 0 0x07) 12 = .H ∧ (Test.wire 0 0x0E) 15 = .H := by
  decide

/-- ReportLayout. -/
theorem witness_report_layout : modeOf (RawSample.mk 0xA5 0x3E 0x01).b1 = .nes ∧
    modeOf (RawSample.mk 0xA5 0x3F 0x01).b1 = .snes := by decide

/-- NesReportHidesByteOne: VC7's samples. -/
theorem witness_nes_hides : let s := Test.holding ⟨0x80, 0x50, 0x00⟩ ⟨0x80, 0x00, 0x00⟩
    modeOf s.lp.b1 = .nes ∧ modeOf 0x50 = .nes ∧ (0x50 : Byte) ≠ s.lp.b1 ∧ s.lr = { s.lp with b1 := 0x50 } := by decide

/-- LatchHiRaisesLatch and every statement over admissible configurations: two of group T's. -/
theorem witness_valid : State.reset.params.Valid ∧
    Params.Valid { nLatch := 1, nHalf := 1, tClkNum := 12, tClkDen := 1, wT := 1 } := by decide

/-- ConfigAppliesLineConfiguration, second clause. -/
theorem witness_config : exec .config State.reset = .next (Test.ran .config State.reset) := rfl

/-- WaitTick: counts 2 and 1, and the count 0 of the reset state. -/
theorem witness_wait_tick : ∀ t ∈ [0, 1, 2, 15], t < 2 ^ State.reset.params.wT := by decide

/-- WaitPhaseLastsItsLoad: each wait phase, with the shortest and the longest load. -/
theorem witness_wait_phase : ∀ p ∈ [(Ph.waitLatch, Ph.latchLo), (Ph.waitPre, Ph.clkLo), (Ph.waitPost, Ph.clkHi)],
    ∀ t ∈ [1, 15], State.reset.params.Valid ∧ (1 ≤ t ∧ t < 2 ^ State.reset.params.wT) ∧
      State.NoReset { State.reset with ph := p.1, t := t } t :=
  fun _ _ t ht => ⟨Test.valid, by revert t; decide, Test.noReset (fun _ hi => absurd hi List.not_mem_nil) t⟩

/-- AuxSampleKeepsRawLevel and DataSampleShiftsInvertedLevel: the four ways a line can be driven. -/
theorem witness_sample_lines : (Test.at Ph.auxSample (Test.lines .L .L)).port.aux = .driven .L ∧
    (Test.at Ph.dataSample (Test.lines .L .L)).port.data = .driven .L ∧
    (let s := Test.at Ph.auxSample { TickInput.quiet with aux := .undriven, data := .undriven };
      s.port.aux = .undriven ∧ s.cfg.getLsbD 3 = true ∧ s.port.data = .undriven ∧ s.cfg.getLsbD 2 = true) ∧
    (let s : State := { State.reset with inputs := [{ TickInput.quiet with aux := .undriven, data := .undriven }] };
      s.port.aux = .undriven ∧ s.cfg.getLsbD 3 = false ∧ s.port.data = .undriven ∧ s.cfg.getLsbD 2 = false) ∧
    State.reset.port.aux = .unconstrained ∧ State.reset.port.data = .unconstrained := by decide

/-- ClkHiCountsBits and StoreCountsBytes: the last bit but one and the last; both bytes. -/
theorem witness_counters : (∀ b ∈ [(0 : BitVec 3), 6], b ≠ 7) ∧
    (∀ y : BitVec 1, y = 0 ∨ y = 1) ∧ State.reset.params.Valid := by decide

/-- CommitIsOnlyWriterOfLastRead, second clause: the phase before COMMIT. -/
theorem witness_not_commit : (Test.at Ph.store (Test.cmd 0)).port.rst = false ∧
    (Test.at Ph.store (Test.cmd 0)).ph ≠ Ph.commit ∧
    step (Test.at Ph.store (Test.cmd 0)) = .next (Test.next (Test.at Ph.store (Test.cmd 0))) :=
  ⟨rfl, by decide, Test.step_next Test.valid⟩

/-- ControlFlowTable, WriteRights, PortsAreFunctionsOfRegisters: a step from every phase, and from IDLE with every
operation and with none. -/
theorem witness_every_row : (∀ p : BitVec 4, ∃ t, step (Test.at p (Test.lines .H .H)) = .next t ∧
      (Test.at p (Test.lines .H .H)).port.rst = false ∧ (Test.at p (Test.lines .H .H)).ph = p) ∧
    (∀ w : BitVec 3, ∃ t, step (Test.at Ph.idle (Test.cmd w)) = .next t ∧
      State.Accepts (Test.at Ph.idle (Test.cmd w)) w) :=
  ⟨fun _ => ⟨_, Test.step_next Test.valid, rfl, rfl⟩, fun _ => ⟨_, Test.step_next Test.valid, rfl, rfl, rfl, rfl⟩⟩

/-- WriteRights: COMMIT and CONFIG, a step into CONFIG, and a DECODE with no destination. -/
theorem witness_write_rights : (Test.next (Test.at Ph.idle (Test.cmd 0b000))).ph = Ph.config ∧
    State.Accepts (Test.at Ph.idle (Test.cmd 0b011)) 0b011 ∧ (0b011 : BitVec 3).getLsbD 2 = false := by
  refine ⟨by decide, ⟨rfl, rfl, rfl, rfl⟩, by decide⟩

/-- ReportValidOnlyFromDecode: a reset that clears it, a DECODE that sets it, and the reset state. -/
theorem witness_report_valid :
    (let s : State := { Test.at Ph.idle Test.rst with rptValid := true };
      step s = .next (Test.next s) ∧ s.rptValid = true ∧ (Test.next s).rptValid = false) ∧
    (let s := Test.at Ph.idle (Test.cmd 0b111);
      step s = .next (Test.next s) ∧ s.rptValid = false ∧ (Test.next s).rptValid = true) ∧
    State.reset.rptValid = false :=
  ⟨⟨Test.step_next Test.valid, rfl, by decide⟩, ⟨Test.step_next Test.valid, rfl, by decide⟩, rfl⟩

/-- PortsAreFunctionsOfRegisters: each output enable on, and off. -/
theorem witness_output_enables : (Test.at Ph.idle (Test.cmd 0)).cfg.getLsbD 0 = true ∧
    (Test.at Ph.idle (Test.cmd 0)).cfg.getLsbD 1 = true ∧ State.reset.cfg.getLsbD 0 = false ∧
    State.reset.cfg.getLsbD 1 = false := by decide

/-- IrqInhibitOneTickPerInit: an accepted INIT, and the step into the tick that shows it. -/
theorem witness_irq_inhibit : let s := Test.at Ph.idle (Test.cmd 0b000)
    s.params.Valid ∧ State.Accepts s 0b000 ∧ cmdOp 0b000 = Op.init ∧ step s = .next (Test.next s) ∧
      (Test.next s).ports.irqInhibit = true :=
  ⟨Test.valid, ⟨rfl, rfl, rfl, rfl⟩, by decide, Test.step_next Test.valid, by decide⟩

/-- The invariant holds in a busy state that is not the reset state: the first tick of a wait with the clock low. -/
theorem witness_invariant : StateInv { Test.at Ph.waitPost (Test.cmd 0b111) with t := 6, clock := .L } ∧
    State.busy { Test.at Ph.waitPost (Test.cmd 0b111) with t := 6, clock := .L } = true ∧
    State.NoReset { Test.at Ph.waitPost (Test.cmd 0b111) with t := 6, clock := .L } (Timing.acquireTicks Config.reference) := by
  refine ⟨⟨?_, ?_, ?_, ?_, ?_, ?_, ?_, ?_, ?_, ?_, ?_⟩, by decide, Test.noReset (by decide) _⟩ <;> decide

/-- IdleLevelsInReachableStates, SamplesComeFromCommitAndDecode: the reset state is reached, and it is idle. -/
theorem witness_reachable : Reachable State.reset ∧ State.reset.ph = Ph.idle :=
  ⟨⟨Config.reference, [], 0, 0, by decide, rfl⟩, rfl⟩

/-- HiddenStateNeverObserved. -/
theorem witness_idle : (Test.at Ph.idle (Test.cmd 0b001)).params.Valid ∧ (Test.at Ph.idle (Test.cmd 0b001)).ph = Ph.idle :=
  ⟨Test.valid, rfl⟩

/-- AcquireRefinesOperation, AcquireTickSchedule, AcquireWaveform: an accepted ACQUIRE, and no reset to its end. -/
theorem witness_acquire : let s := Test.at Ph.idle (Test.cmd 0b001)
    s.params.Valid ∧ State.Accepts s 0b001 ∧ cmdOp 0b001 = Op.acquire ∧ s.NoReset (Timing.acquireTicks s.params) ∧
      s.latch = .L ∧ s.clock = .H :=
  ⟨by decide, ⟨rfl, rfl, rfl, rfl⟩, by decide, Test.noReset (by decide) _, rfl, rfl⟩

/-- InitRefinesOperation, from a block that was never configured. -/
theorem witness_init : let s : State := { State.reset with inputs := [Test.cmd 0b000] }
    s.params.Valid ∧ State.Accepts s 0b000 ∧ cmdOp 0b000 = Op.init ∧ s.NoReset (Timing.initTicks s.params) :=
  ⟨by decide, ⟨rfl, rfl, rfl, rfl⟩, by decide, Test.noReset (by decide) _⟩

/-- LaterInitIsAnAcquire. -/
theorem witness_later_init : let s := Test.holding ⟨0x80, 0x0F, 0x00⟩ ⟨0x80, 0x0F, 0x00⟩
    s.cfg = 0b1111 ∧ s.latch = .L ∧ s.clock = .H := by decide

/-- BootByInit: a reset tick, and an INIT presented in the next. -/
theorem witness_boot : let s : State := { Test.at Ph.waitPre Test.rst with inputs := [Test.rst, Test.cmd 0b000] }
    s.params.Valid ∧ s.port.rst = true ∧ step s = .next s.resetTick ∧ s.resetTick.Accepts 0b000 ∧
      cmdOp 0b000 = Op.init ∧ s.resetTick.NoReset (Timing.initTicks s.resetTick.params) :=
  ⟨by decide, rfl, step_reset Test.valid rfl, ⟨rfl, rfl, rfl, rfl⟩, by decide, Test.noReset (by decide) _⟩

end Sys2Proof.Machine
end

section
/-! Scope of a step (00_scope.md R6 and R9): every instruction completes, what a tick with `rst` low runs, where a placed
word is fetched from, and which configurations a step takes. -/

namespace Sys2Proof.Machine

/-- 60_exceptions.md R210, for the instructions. Only DECODE, CLK_HI and STORE branch, and each branch completes. -/
theorem exec_completes (i : Instr) (s : State) : ∃ t, exec i s = .next t := by
  cases i
  case decode d => exact ⟨_, exec_decode_eq d s⟩
  case clkHi =>
    by_cases hb : s.bit ≠ 7
    · exact ⟨_, if_pos hb⟩
    · exact ⟨_, if_neg hb⟩
  case store =>
    by_cases hb : s.byte = 0
    · exact ⟨_, if_pos hb⟩
    · exact ⟨_, if_neg hb⟩
  all_goals exact ⟨_, rfl⟩

/-- With `rst` low a step is the fetched instruction followed by the tick's end. -/
theorem step_eq_afterExec {s : State} (hv : s.params.Valid) (hr : s.port.rst = false) :
    step s = afterExec (exec (decodeWord s.fetchWord) s) := by
  rw [step_eq_tick hv, tick, hr]
  rfl

/-- Every tick of an admissible configuration, a reset tick too, has a next state (60_exceptions.md R210). -/
theorem step_completes {s : State} (hv : s.params.Valid) : ∃ t, step s = .next t := by
  cases hr : s.port.rst with
  | true => exact ⟨_, step_reset hv hr⟩
  | false =>
    obtain ⟨t, ht⟩ := exec_completes (decodeWord s.fetchWord) s
    exact ⟨_, step_exec hv hr ht⟩

/-- The constraints of R6 are all that a step is refused for (93_implementation_defined.md U22). -/
theorem step_refused_iff (s : State) : step s = .refused .inadmissibleParameters ↔ ¬ s.params.Valid := by
  refine ⟨fun h hv => ?_, step_inadmissible⟩
  obtain ⟨t, ht⟩ := step_completes hv
  rw [ht] at h
  cases h

@[simp] theorem State.placeWord_port_rst (s : State) (w : FetchWord) : (s.placeWord w).port.rst = false := by
  cases w <;> rfl

/-- A command is placed in IDLE with `cmd_valid` high; the phase number IDLE is placed with `cmd_valid` low, and a busy
phase runs whatever the host presents (30_encoding.md R84). -/
@[simp] theorem State.fetchWord_placeWord (s : State) (w : FetchWord) : (s.placeWord w).fetchWord = w := by
  cases w with
  | cmd c => exact State.fetchWord_command rfl rfl
  | phase p =>
    by_cases hp : p = Ph.idle
    · have hv : (s.placeWord (.phase p)).port.cmdValid = false := by simp [State.placeWord, hp]
      exact State.fetchWord_quiet hv
    · exact State.fetchWord_busy hp

/-- Settles O5: in each clause the fetched word is the one named, and `step_exec` runs what it decodes to. -/
theorem stepRunsDecodedInstruction : Obligations.StepRunsDecodedInstruction := by
  refine ⟨fun s t w hv ⟨hr, hp, hw⟩ h => ?_, fun s t hv hr hp h => ?_, fun s t hv hr hc h => ?_⟩
  · exact step_command hv hr hp hw h
  · exact step_phase hv hr rfl hp h
  · have hf : exec (decodeWord s.fetchWord) s = .next t := by
      rw [State.fetchWord_quiet hc]
      exact h
    exact step_exec hv hr hf

/-- Settles O6: a placed word comes with `rst` low and is the word fetched. -/
theorem placedWordIsRunNext : Obligations.PlacedWordIsRunNext := by
  refine fun s w => ⟨s.fetchWord_placeWord w, fun hv => ?_⟩
  have hvp : (s.placeWord w).params.Valid := by rwa [s.placeWord_params w]
  rw [step_eq_afterExec hvp (s.placeWord_port_rst w), s.fetchWord_placeWord w]

/-- Settles O58: a step is refused only for the constraints, and what it answers has the parameters it began with. -/
theorem inadmissibleConfigurationIsRefused : Obligations.InadmissibleConfigurationIsRefused := by
  refine ⟨step_refused_iff, exec_completes, fun s t h => ?_⟩
  have hp : t.params = s.params := step_params h
  exact ⟨hp, hp ▸ step_valid h⟩

end Sys2Proof.Machine
end

section
/-! What a tick with `rst` low does to each register (10_state.md R42), and what follows for the runs from reset. -/

namespace Sys2Proof.Machine

variable {s t u : State}

/-- A wait phase and the phase it leaves for (41_acquirer.md R135, R138, R141). -/
inductive WaitExit (p : BitVec 4) : BitVec 4 → Prop where
  | latch (hp : p = Ph.waitLatch) : WaitExit p Ph.latchLo
  | pre (hp : p = Ph.waitPre) : WaitExit p Ph.clkLo
  | post (hp : p = Ph.waitPost) : WaitExit p Ph.clkHi

/-- What the rule of a phase other than IDLE makes of the state, before the tick's end: one constructor for each rule and
branch, the three wait phases sharing theirs (41_acquirer.md R133 to R145, 40_initializer.md R111). -/
inductive BusyTick (s : State) : State → Prop where
  | config (hp : s.ph = Ph.config) : BusyTick s ((s.writeCfg 0b1111).idleLevels.goto Ph.latchHi)
  | latchHi (hp : s.ph = Ph.latchHi) :
      BusyTick s (((s.writeLatch .H).writeT s.params.nLatch).goto Ph.waitLatch)
  | wait {succ : BitVec 4} (hp : WaitExit s.ph succ) : BusyTick s (s.waitTick succ)
  | latchLo (hp : s.ph = Ph.latchLo) : BusyTick s ((s.writeLatch .L).goto Ph.auxSample)
  | auxSample (hp : s.ph = Ph.auxSample) :
      BusyTick s ((((s.writeAuxs s.pinReadAux).writeByte 0).writeBit 0).enterHalfWait Ph.waitPre)
  | clkLo (hp : s.ph = Ph.clkLo) : BusyTick s ((s.writeClock .L).goto Ph.dataSample)
  | dataSample (hp : s.ph = Ph.dataSample) :
      BusyTick s ((s.writeAcc (shiftIn s.acc (inverted s.pinReadData))).enterHalfWait Ph.waitPost)
  | nextBit (hp : s.ph = Ph.clkHi) (hb : s.bit ≠ 7) :
      BusyTick s (((s.writeClock .H).writeBit (s.bit + 1)).enterHalfWait Ph.waitPre)
  | lastBit (hp : s.ph = Ph.clkHi) (hb : s.bit = 7) : BusyTick s ((s.writeClock .H).goto Ph.store)
  | nextByte (hp : s.ph = Ph.store) (hb : s.byte = 0) :
      BusyTick s ((((s.writeS0 s.acc).writeByte 1).writeBit 0).enterHalfWait Ph.waitPre)
  | lastByte (hp : s.ph = Ph.store) (hb : s.byte = 1) : BusyTick s ((s.writeS1 s.acc).goto Ph.commit)
  | commit (hp : s.ph = Ph.commit) :
      BusyTick s (((s.writeLr { b0 := s.s0, b1 := s.s1, b2 := auxByte s.auxs }).writeRet 0x00).goto Ph.idle)
  | reserved (hp : 13 ≤ s.ph.toNat) : BusyTick s s.recover

/-- The three reserved phases. -/
theorem reserved_phase_cases (p : BitVec 4) (h : 13 ≤ p.toNat) : p = 13 ∨ p = 14 ∨ p = 15 := by
  revert p; decide

/-- `BusyTick` is what `exec` does in a busy phase. -/
theorem exec_busy (hi : s.ph ≠ Ph.idle) : ∃ u, exec (decodePhase s.ph) s = .next u ∧ BusyTick s u := by
  by_cases hr : 13 ≤ s.ph.toNat
  · refine ⟨_, ?_, .reserved hr⟩
    rcases reserved_phase_cases s.ph hr with hp | hp | hp <;> rw [hp] <;> rfl
  rcases busy_phase_cases s.ph (by omega) hi with
    hp | hp | hp | hp | hp | hp | hp | hp | hp | hp | hp | hp
  · exact ⟨_, by rw [hp]; rfl, .config hp⟩
  · exact ⟨_, by rw [hp]; rfl, .latchHi hp⟩
  · exact ⟨_, by rw [hp]; rfl, .wait (.latch hp)⟩
  · exact ⟨_, by rw [hp]; rfl, .latchLo hp⟩
  · exact ⟨_, by rw [hp]; rfl, .auxSample hp⟩
  · exact ⟨_, by rw [hp]; rfl, .wait (.pre hp)⟩
  · exact ⟨_, by rw [hp]; rfl, .clkLo hp⟩
  · exact ⟨_, by rw [hp]; rfl, .dataSample hp⟩
  · exact ⟨_, by rw [hp]; rfl, .wait (.post hp)⟩
  · by_cases hb : s.bit ≠ 7
    · exact ⟨_, by rw [hp]; exact if_pos hb, .nextBit hp hb⟩
    · exact ⟨_, by rw [hp]; exact if_neg hb, .lastBit hp (not_not.1 hb)⟩
  · by_cases hb : s.byte = 0
    · exact ⟨_, by rw [hp]; exact if_pos hb, .nextByte hp hb⟩
    · exact ⟨_, by rw [hp]; exact if_neg hb, .lastByte hp (by bv_omega)⟩
  · exact ⟨_, by rw [hp]; rfl, .commit hp⟩

/-- A busy tick with `rst` low is the phase's rule followed by the tick's end. -/
theorem step_busy (h : step s = .next t) (hr : s.port.rst = false) (hi : s.ph ≠ Ph.idle) :
    ∃ u, BusyTick s u ∧ t = u.endTick := by
  obtain ⟨u, hu, hb⟩ := exec_busy hi
  rw [step_phase (step_valid h) hr rfl hi hu] at h
  exact ⟨u, hb, (Host.Outcome.next.inj h).symm⟩

/-- The tick that accepts a command is the command followed by the tick's end. -/
theorem step_accepted {w : BitVec 3} (h : step s = .next t) (ha : s.Accepts w)
    (hu : exec (decodeCommand w) s = .next u) : t = u.endTick := by
  obtain ⟨hr, hp, hw⟩ := ha
  rw [step_command (step_valid h) hr hp hw hu] at h
  exact (Host.Outcome.next.inj h).symm

/-- A reset tick ends in the reset tick's state. -/
theorem step_rst (h : step s = .next t) (hr : s.port.rst = true) : t = s.resetTick := by
  rw [step_reset (step_valid h) hr] at h
  exact (Host.Outcome.next.inj h).symm

/-! ### What a busy tick leaves unchanged -/

namespace BusyTick

/-- The registers that belong to DECODE, and the configuration. -/
theorem decode_frame (h : BusyTick s u) :
    u.lp = s.lp ∧ u.rpt = s.rpt ∧ u.rptValid = s.rptValid ∧ u.params = s.params := by
  cases h <;> simp

/-- COMMIT is the only phase that writes `LR` and `RET`. -/
theorem lr_ret_eq (h : BusyTick s u) :
    (s.ph ≠ Ph.commit → u.lr = s.lr ∧ u.ret = s.ret) ∧
    (s.ph = Ph.commit → u.lr = { b0 := s.s0, b1 := s.s1, b2 := auxByte s.auxs } ∧ u.ret = 0x00) := by
  cases h with
  | wait hp => cases hp <;> simp [*]
  | reserved hp => exact ⟨fun _ => ⟨rfl, rfl⟩, fun hc => by simp [hc] at hp⟩
  | _ hp => simp [hp]

/-- CONFIG is the only phase that writes `CFG`. -/
theorem cfg_eq (h : BusyTick s u) :
    (s.ph ≠ Ph.config → u.cfg = s.cfg) ∧ (s.ph = Ph.config → u.cfg = 0b1111) := by
  cases h with
  | wait hp => cases hp <;> simp [*]
  | reserved hp => exact ⟨fun _ => rfl, fun hc => by simp [hc] at hp⟩
  | _ hp => simp [hp]

/-- No busy phase leads to CONFIG. -/
theorem ph_ne_config (h : BusyTick s u) : u.ph ≠ Ph.config := by
  cases h with
  | @wait succ hp =>
    rcases s.waitTick_cases succ with ⟨-, h⟩ | ⟨-, h⟩ <;> rw [h] <;> cases hp <;> simp [*]
  | _ => simp

end BusyTick

/-! ### The registers of CHANGED and DECODE -/

@[simp] theorem opDecode_rptValid (d : Bool) (s : State) : (opDecode d s).rptValid = (d || s.rptValid) := by
  cases d <;> rfl

@[simp] theorem opDecode_ph (d : Bool) (s : State) : (opDecode d s).ph = s.ph := by cases d <;> rfl

/-- Settles O42: the busy clauses are the frames of `BusyTick`, the command clauses the commands' own meanings. -/
theorem writeRights : Obligations.WriteRights := by
  refine fun s t h => ⟨fun hr => by obtain rfl := step_rst h hr; rfl, fun hr => ⟨fun hi => ?_, fun hc => ?_, fun w ha ho => ?_,
    fun w ha ho => ?_, fun w ha ho => ?_, fun hi hv => ?_⟩, step_params h⟩
  · obtain ⟨u, hb, rfl⟩ := step_busy h hr hi
    obtain ⟨hlp, hrpt, hvalid, -⟩ := hb.decode_frame
    obtain ⟨hkeep, hcommit⟩ := hb.lr_ret_eq
    obtain ⟨hcfg, hconfig⟩ := hb.cfg_eq
    exact ⟨hlp, hrpt, hvalid, hkeep, fun hc => (hcommit hc).2, hcfg, hconfig⟩
  · rcases step_tick_cases h hr with ⟨hi, -⟩ | ⟨hi, -, rfl⟩ | ⟨hi, hv, ⟨ho, -⟩ | ⟨-, rfl⟩ | ⟨-, rfl⟩ | ⟨-, rfl⟩⟩
    · obtain ⟨u, hb, rfl⟩ := step_busy h hr hi
      exact absurd hc hb.ph_ne_config
    · simp [hi] at hc
    · exact ⟨s.port.cmd, ⟨hr, hi, hv, rfl⟩, ho⟩
    · simp at hc
    · simp [opChanged, hi] at hc
    · simp [hi] at hc
  · obtain ⟨hinit, hacquire, -, -⟩ := decodeCommand_of_op w
    rcases ho with ho | ho
    · obtain rfl := step_accepted h ha (u := s.goto Ph.config) (by rw [hinit ho]; rfl)
      simp
    · obtain rfl := step_accepted h ha (u := s.goto Ph.latchHi) (by rw [hacquire ho]; rfl)
      simp
  · obtain ⟨-, -, hchanged, -⟩ := decodeCommand_of_op w
    obtain rfl := step_accepted h ha (by rw [hchanged ho]; exact exec_changed_eq _ s)
    rfl
  · obtain ⟨-, -, -, hdecode⟩ := decodeCommand_of_op w
    obtain rfl := step_accepted h ha (by rw [hdecode ho]; exact exec_decode_eq _ s)
    refine ⟨by cases cmdD w <;> rfl, fun hd => ?_⟩
    have hd : cmdD w = false := hd
    rw [hd]
    exact ⟨rfl, rfl⟩
  · obtain rfl : t = s.endTick := by
      rw [step_exec (step_valid h) hr (by rw [State.fetchWord_quiet hv, hi]; rfl)] at h
      exact (Host.Outcome.next.inj h).symm
    rfl

/-- With `rst` low `RPT_VALID` changes in an accepted DECODE with a destination only, which sets it. -/
theorem step_rptValid (h : step s = .next t) (hr : s.port.rst = false) :
    t.rptValid = s.rptValid ∨ (t.rptValid = true ∧ ∃ w, s.Accepts w ∧ decodeCommand w = .decode true) := by
  rcases step_tick_cases h hr with ⟨hi, -⟩ | ⟨-, -, rfl⟩ | ⟨hi, hv, ⟨-, rfl⟩ | ⟨-, rfl⟩ | ⟨-, rfl⟩ | ⟨ho, rfl⟩⟩
  · obtain ⟨u, hb, rfl⟩ := step_busy h hr hi
    obtain ⟨-, -, hvalid, -⟩ := hb.decode_frame
    exact .inl hvalid
  · exact .inl rfl
  · exact .inl rfl
  · exact .inl rfl
  · exact .inl rfl
  · cases hd : cmdD s.port.cmd with
    | false => exact .inl rfl
    | true =>
      obtain ⟨-, -, -, hdecode⟩ := decodeCommand_of_op s.port.cmd
      exact .inr ⟨rfl, s.port.cmd, ⟨hr, hi, hv, rfl⟩, hd ▸ hdecode ho⟩

/-- Settles O43: `step_rptValid` for the two clauses about a step that changes `RPT_VALID`. -/
theorem reportValidOnlyFromDecode : Obligations.ReportValidOnlyFromDecode := by
  refine ⟨fun s => ⟨_, exec_decode_eq true s, rfl, rfl⟩, fun s t h hs ht => ?_, fun s t h hs ht => ?_,
    fun s t hr h => ?_, fun s hs => by simp [State.hostReport, hs]⟩
  · by_contra hr
    rcases step_rptValid h (Bool.eq_false_of_not_eq_true hr) with hk | ⟨hk, -⟩ <;> simp [hs, ht] at hk
  · cases hr : s.port.rst with
    | true => rw [step_rst h hr] at ht; cases ht
    | false =>
      rcases step_rptValid h hr with hk | ⟨-, hw⟩
      · simp [hs, ht] at hk
      · exact hw
  · rw [step_rst h hr]; rfl

/-! ### Where the two samples come from -/

/-- `LR` after a step: kept, zero by a reset, or assembled by COMMIT (10_state.md R24 (a)). -/
theorem step_lr (h : step s = .next t) : t.lr = s.lr ∨ t.lr = { b0 := 0, b1 := 0, b2 := 0 } ∨
    (s.ph = Ph.commit ∧ t.lr = { b0 := s.s0, b1 := s.s1, b2 := auxByte s.auxs }) := by
  cases hr : s.port.rst with
  | true => exact .inr (.inl (by rw [step_rst h hr]; rfl))
  | false =>
    rcases step_tick_cases h hr with ⟨hi, -⟩ | ⟨-, -, rfl⟩ | ⟨-, -, ⟨-, rfl⟩ | ⟨-, rfl⟩ | ⟨-, rfl⟩ | ⟨-, rfl⟩⟩
    · obtain ⟨u, hb, rfl⟩ := step_busy h hr hi
      obtain ⟨hkeep, hcommit⟩ := hb.lr_ret_eq
      by_cases hc : s.ph = Ph.commit
      · exact .inr (.inr ⟨hc, (hcommit hc).1⟩)
      · exact .inl (hkeep hc).1
    all_goals exact .inl (by simp)

/-- `LP` after a step: kept, zero by a reset, or the `LR` of an accepted DECODE (10_state.md R24 (b)). -/
theorem step_lp (h : step s = .next t) : t.lp = s.lp ∨ t.lp = { b0 := 0, b1 := 0, b2 := 0 } ∨
    ∃ w, s.Accepts w ∧ cmdOp w = Op.decode ∧ t.lp = s.lr := by
  cases hr : s.port.rst with
  | true => exact .inr (.inl (by rw [step_rst h hr]; rfl))
  | false =>
    rcases step_tick_cases h hr with ⟨hi, -⟩ | ⟨-, -, rfl⟩ | ⟨hi, hv, ⟨-, rfl⟩ | ⟨-, rfl⟩ | ⟨-, rfl⟩ | ⟨ho, rfl⟩⟩
    · obtain ⟨u, hb, rfl⟩ := step_busy h hr hi
      exact .inl hb.decode_frame.1
    case inr.inr.inr.inr.inr =>
      exact .inr (.inr ⟨s.port.cmd, ⟨hr, hi, hv, rfl⟩, ho, by simp⟩)
    all_goals exact .inl (by simp)

/-- A sample that is all zero, or that a COMMIT in the first `n` ticks from `s` assembled. -/
def FromCommit (s : State) (n : Nat) (r : RawSample) : Prop :=
  r = { b0 := 0, b1 := 0, b2 := 0 } ∨
    ∃ m u, m < n ∧ run m s = .next u ∧ u.ph = Ph.commit ∧ r = { b0 := u.s0, b1 := u.s1, b2 := auxByte u.auxs }

/-- A sample that is all zero, or the `LR` of a tick among the first `n` from `s` that accepted a DECODE. -/
def FromDecode (s : State) (n : Nat) (r : RawSample) : Prop :=
  r = { b0 := 0, b1 := 0, b2 := 0 } ∨
    ∃ m u w, m < n ∧ run m s = .next u ∧ u.Accepts w ∧ cmdOp w = Op.decode ∧ r = u.lr

theorem FromCommit.succ {n : Nat} {r : RawSample} (h : FromCommit s n r) : FromCommit s (n + 1) r :=
  h.imp_right fun ⟨m, u, hm, hu⟩ => ⟨m, u, Nat.lt_succ_of_lt hm, hu⟩

theorem FromDecode.succ {n : Nat} {r : RawSample} (h : FromDecode s n r) : FromDecode s (n + 1) r :=
  h.imp_right fun ⟨m, u, w, hm, hu⟩ => ⟨m, u, w, Nat.lt_succ_of_lt hm, hu⟩

theorem run_lr_fromCommit {n : Nat} (h0 : s.lr = { b0 := 0, b1 := 0, b2 := 0 }) (h : run n s = .next t) :
    FromCommit s n t.lr := by
  induction n generalizing t with
  | zero => cases h; exact .inl h0
  | succ n ih =>
    obtain ⟨u, hu, hs⟩ := run_last h
    rcases step_lr hs with hk | hz | ⟨hc, hl⟩
    · exact hk ▸ (ih hu).succ
    · exact .inl hz
    · exact .inr ⟨n, u, Nat.lt_succ_self n, hu, hc, hl⟩

theorem run_lp_fromDecode {n : Nat} (h0 : s.lp = { b0 := 0, b1 := 0, b2 := 0 }) (h : run n s = .next t) :
    FromDecode s n t.lp := by
  induction n generalizing t with
  | zero => cases h; exact .inl h0
  | succ n ih =>
    obtain ⟨u, hu, hs⟩ := run_last h
    rcases step_lp hs with hk | hz | ⟨w, ha, ho, hl⟩
    · exact hk ▸ (ih hu).succ
    · exact .inl hz
    · exact .inr ⟨n, u, w, Nat.lt_succ_self n, hu, ha, ho, hl⟩

/-- Settles O49: both samples start at zero, and each step's source is `step_lr` and `step_lp`. -/
theorem samplesComeFromCommitAndDecode : Obligations.SamplesComeFromCommitAndDecode :=
  fun _ _ _ _ _ h => ⟨run_lr_fromCommit rfl h, run_lp_fromDecode rfl h⟩

end Sys2Proof.Machine
end

section
/-! The status ports as functions of the registers (10_state.md R35, 20_memory.md R65). -/

namespace Sys2Proof.Machine

/-- The mode function as a mask of the low nibble (43_mode_detector.md R180). -/
theorem modeOf_eq_snes_iff (b : Byte) : modeOf b = .snes ↔ b &&& 0x0F = 0x0F := by
  have hn : b.extractLsb' 0 4 = 0xF ↔ b &&& 0x0F = 0x0F := by revert b; decide
  rw [← hn, modeOf]
  split
  · exact iff_of_true rfl ‹_›
  · exact iff_of_false (by decide) ‹_›

theorem Mode.toBit_eq_one_iff (m : Mode) : m.toBit = 1 ↔ m = .snes := by cases m <;> decide

/-- Bit 0 of `CFG` enables LATCH (10_state.md R34). -/
theorem State.ports_latchLine (s : State) :
    s.ports.latchLine = if s.cfg.getLsbD 0 then some s.latch else none := rfl

/-- Bit 1 of `CFG` enables CLOCK (10_state.md R34). -/
theorem State.ports_clockLine (s : State) :
    s.ports.clockLine = if s.cfg.getLsbD 1 then some s.clock else none := rfl

/-- Settles O45: each port by the lemma of the function that defines it. -/
theorem portsAreFunctionsOfRegisters : Obligations.PortsAreFunctionsOfRegisters := by
  refine fun s => ⟨bne_iff_ne, s.changed_iff, ?_, beq_iff_eq, rfl, fun h => ?_, fun h => ?_, fun h => ?_, fun h => ?_⟩
  · exact (Mode.toBit_eq_one_iff _).trans (modeOf_eq_snes_iff _)
  · rw [State.ports_latchLine, if_pos h]
  · rw [State.ports_latchLine, if_neg (ne_true_of_eq_false h)]
  · rw [State.ports_clockLine, if_pos h]
  · rw [State.ports_clockLine, if_neg (ne_true_of_eq_false h)]

end Sys2Proof.Machine
end

section
/-! The invariant of the reachable states (10_state.md R24, R26, R27, R30, R32, R34, R39). -/

namespace Sys2Proof.Machine

variable {s t u : State}

@[simp] theorem auxOnly_auxByte (a : Level) : auxOnly (auxByte a) = true := by cases a <;> decide

@[simp] theorem zext8_eq_zero_or_one (b : Bool) : zext8 b = 0x00 ∨ zext8 b = 0x01 := by cases b <;> decide

/-- The report of a sample is what a stored report can be (44_button_decoder.md R191, R192). -/
theorem reportOf_wellFormed {r : RawSample} (h : auxOnly r.b2 = true) : (reportOf r).wellFormed = true := by
  unfold reportOf
  split <;> simp [Report.wellFormed, snesMask, *]

/-- Every register of the reset state, and the parameters as given; the inputs and the free levels do not matter. -/
theorem StateInv.resetWith {p : Config.Params} (hp : p.Valid) (inputs : List TickInput) (draw : Nat) :
    StateInv { State.resetWith p with inputs := inputs, draw := draw } where
  params := hp
  phase := Nat.zero_le _
  lrAux := (by decide : auxOnly 0 = true)
  lpAux := (by decide : auxOnly 0 = true)
  latchLevel := by simp [State.resetWith]
  clockLevel := by simp [State.resetWith]
  timerWidth := Nat.two_pow_pos _
  timerInWait := by simp [State.resetWith, isWait]
  cfgWhole := .inl rfl
  retCode := .inl rfl
  report := rfl

/-- The tick's end touches nothing the invariant speaks of. -/
theorem StateInv.endTick (h : StateInv s) : StateInv s.endTick := by
  obtain ⟨⟩ := h
  constructor <;> assumption

/-- Settles O46: the reference configuration is admissible. -/
theorem resetMeetsInvariant : Obligations.ResetMeetsInvariant :=
  ⟨StateInv.resetWith (by decide) [] 0, fun _ inputs draw hp => StateInv.resetWith hp inputs draw⟩

/-! ### The commands -/

/-- Accepting INIT or ACQUIRE: a phase entered from IDLE that is no wait phase and has the idle levels. -/
theorem StateInv.goto_of_idle {p : BitVec 4} (h : StateInv s) (hi : s.ph = Ph.idle)
    (hp : p = Ph.config ∨ p = Ph.latchHi) : StateInv (s.goto p) where
  params := h.params
  phase := by rcases hp with rfl | rfl <;> simp
  lrAux := h.lrAux
  lpAux := h.lpAux
  latchLevel := by rcases hp with rfl | rfl <;> simpa [hi] using h.latchLevel
  clockLevel := by rcases hp with rfl | rfl <;> simpa [hi] using h.clockLevel
  timerWidth := h.timerWidth
  timerInWait := by rcases hp with rfl | rfl <;> simp [isWait]
  cfgWhole := h.cfgWhole
  retCode := h.retCode
  report := h.report

theorem StateInv.opChanged (h : StateInv s) : StateInv (opChanged s) :=
  { h with retCode := ite_eq_or_eq .. }

theorem StateInv.opDecode (d : Bool) (h : StateInv s) : StateInv (opDecode d s) := by
  have hlp : StateInv { s with lp := s.lr } := { h with lpAux := h.lrAux }
  cases d with
  | false => exact hlp
  | true => exact { hlp with report := reportOf_wellFormed h.lrAux }

/-! ### The busy ticks -/

namespace BusyTick

theorem phase_le (hb : BusyTick s u) : u.ph.toNat ≤ 12 := by
  cases hb with
  | @wait succ hp =>
    rcases s.waitTick_cases succ with ⟨-, hw⟩ | ⟨-, hw⟩ <;> rw [hw] <;> cases hp <;> simp [*]
  | _ => simp

/-- The latch register rises in LATCH_HI and falls in LATCH_LO. -/
theorem latchLevel (hb : BusyTick s u) (h : StateInv s) :
    u.latch = .H ↔ u.ph = Ph.waitLatch ∨ u.ph = Ph.latchLo := by
  cases hb with
  | @wait succ hp =>
    rcases s.waitTick_cases succ with ⟨-, hw⟩ | ⟨-, hw⟩ <;> rw [hw]
    · exact h.latchLevel
    · cases hp <;> simp [h.latchLevel, *]
  | _ hp => simp [h.latchLevel, hp]

/-- The clock register falls in CLK_LO and rises in CLK_HI. -/
theorem clockLevel (hb : BusyTick s u) (h : StateInv s) :
    u.clock = .L ↔ u.ph = Ph.dataSample ∨ u.ph = Ph.waitPost ∨ u.ph = Ph.clkHi := by
  cases hb with
  | @wait succ hp =>
    rcases s.waitTick_cases succ with ⟨-, hw⟩ | ⟨-, hw⟩ <;> rw [hw]
    · exact h.clockLevel
    · cases hp <;> simp [h.clockLevel, *]
  | _ hp => simp [h.clockLevel, hp]

/-- Every write of `T` is reduced to its width. -/
theorem timerWidth (hb : BusyTick s u) (h : StateInv s) : u.t < 2 ^ u.params.wT := by
  have ht := h.timerWidth
  have hm (n : Nat) : n % 2 ^ s.params.wT < 2 ^ s.params.wT := Nat.mod_lt _ (Nat.two_pow_pos _)
  cases hb with
  | @wait succ hp => rcases s.waitTick_cases succ with ⟨-, h⟩ | ⟨-, h⟩ <;> rw [h] <;> simp [*]
  | _ hp => simp [*]

/-- A wait phase is entered with its load, which is at least 1, and stays while `T` is above 1. -/
theorem timerInWait (hb : BusyTick s u) (h : StateInv s) :
    isWait u.ph = true → 1 ≤ u.t ∧ u.t ≤ waitTicks u.params u.ph := by
  have hlatch := Nat.mod_eq_of_lt (nLatch_fits h.params)
  have hhalf := Nat.mod_eq_of_lt (nHalf_fits h.params)
  obtain ⟨-, -, hl1, hh1, -⟩ := h.params
  cases hb with
  | @wait succ hp =>
    rcases s.waitTick_cases succ with ⟨h1, hw⟩ | ⟨-, hw⟩ <;> rw [hw]
    · intro hs
      obtain ⟨-, hle⟩ := h.timerInWait hs
      have hf : s.t - 1 < 2 ^ s.params.wT := by have := h.timerWidth; omega
      rw [State.writeT_of_lt hf]
      exact ⟨Nat.le_sub_one_of_lt h1, (Nat.sub_le s.t 1).trans hle⟩
    · cases hp <;> simp [isWait]
  | _ hp => simp [isWait, waitTicks, *]

theorem keeps_inv (hb : BusyTick s u) (h : StateInv s) : StateInv u := by
  obtain ⟨hlp, hrpt, hvalid, hparams⟩ := hb.decode_frame
  obtain ⟨hkeep, hcommit⟩ := hb.lr_ret_eq
  obtain ⟨hcfg, hconfig⟩ := hb.cfg_eq
  refine ⟨hparams ▸ h.params, hb.phase_le, ?_, hlp ▸ h.lpAux, hb.latchLevel h, hb.clockLevel h, hb.timerWidth h,
    hb.timerInWait h, ?_, ?_, by rw [hrpt, hvalid]; exact h.report⟩
  · by_cases hc : s.ph = Ph.commit
    · rw [(hcommit hc).1]; exact auxOnly_auxByte s.auxs
    · rw [(hkeep hc).1]; exact h.lrAux
  · by_cases hc : s.ph = Ph.config
    · exact .inr (hconfig hc)
    · rw [hcfg hc]; exact h.cfgWhole
  · by_cases hc : s.ph = Ph.commit
    · exact .inl (hcommit hc).2
    · rw [(hkeep hc).2]; exact h.retCode

end BusyTick

/-- Settles O47: reset, the rule of a busy phase, and each command keep the invariant, and the tick's end does. -/
theorem stepKeepsInvariant : Obligations.StepKeepsInvariant := by
  intro s t hs h
  cases hr : s.port.rst with
  | true =>
    rw [step_rst h hr]
    exact StateInv.resetWith hs.params _ _
  | false =>
    rcases step_tick_cases h hr with ⟨hi, -⟩ | ⟨-, -, rfl⟩ | ⟨hi, -, ⟨-, rfl⟩ | ⟨-, rfl⟩ | ⟨-, rfl⟩ | ⟨-, rfl⟩⟩
    · obtain ⟨u, hb, rfl⟩ := step_busy h hr hi
      exact (hb.keeps_inv hs).endTick
    · exact hs.endTick
    · exact (hs.goto_of_idle hi (.inl rfl)).endTick
    · exact (hs.goto_of_idle hi (.inr rfl)).endTick
    · exact hs.opChanged.endTick
    · exact (hs.opDecode _).endTick

theorem run_keeps_inv {n : Nat} (hs : StateInv s) (h : run n s = .next t) : StateInv t := by
  induction n generalizing t with
  | zero => cases h; exact hs
  | succ n ih =>
    obtain ⟨u, hu, hut⟩ := run_last h
    exact stepKeepsInvariant u t (ih hu) hut

theorem Reachable.inv (h : Reachable t) : StateInv t := by
  obtain ⟨p, inputs, draw, n, hp, hrun⟩ := h
  exact run_keeps_inv (StateInv.resetWith hp inputs draw) hrun

theorem level_eq_L_of_ne_H {l : Level} (h : l ≠ .H) : l = .L := by cases l <;> simp_all

theorem level_eq_H_of_ne_L {l : Level} (h : l ≠ .L) : l = .H := by cases l <;> simp_all

/-- Settles O48: the level clauses of the invariant, in IDLE. -/
theorem idleLevelsInReachableStates : Obligations.IdleLevelsInReachableStates := by
  intro t ht hi
  have hlatch : t.latch ≠ .H := by simp [ht.inv.latchLevel, hi]
  have hclock : t.clock ≠ .L := by simp [ht.inv.clockLevel, hi]
  exact ⟨level_eq_L_of_ne_H hlatch, level_eq_H_of_ne_L hclock⟩

end Sys2Proof.Machine
end

section
/-! The staging registers, the loop counters and the delay counter are written before they are read (10_state.md R29,
R37): two states that differ in them only where no later tick of the sequence reads them run alike at every port. -/

namespace Sys2Proof.Machine

variable {s t u : State}

/-- The registers no port shows and no rule reads before the sequence has written them. -/
structure Hidden where
  acc : Byte
  s0 : Byte
  s1 : Byte
  auxs : Level
  byte : BitVec 1
  bit : BitVec 3
  t : Nat

/-- `s` with other values in the hidden registers. -/
def State.withHidden (s : State) (h : Hidden) : State :=
  { s with acc := h.acc, s0 := h.s0, s1 := h.s1, auxs := h.auxs, byte := h.byte, bit := h.bit, t := h.t }

/-- What `s` holds in the hidden registers. -/
def State.hidden (s : State) : Hidden :=
  { acc := s.acc, s0 := s.s0, s1 := s.s1, auxs := s.auxs, byte := s.byte, bit := s.bit, t := s.t }

theorem State.withHidden_ports (s : State) (h : Hidden) : (s.withHidden h).ports = s.ports := rfl

/-- The phases from the AUX sample's end to COMMIT: the bit and byte loops are running, or have just ended. -/
abbrev inLoop (ph : BitVec 4) : Prop := Ph.waitPre.toNat ≤ ph.toNat ∧ ph.toNat ≤ Ph.commit.toNat

/-- How many bits of `ACC`, from bit 0 up, the sequence has shifted in since the byte began: those STORE will keep. -/
def State.shifted (s : State) : Nat :=
  if s.ph = Ph.store then 8
  else if s.ph = Ph.waitPost ∨ s.ph = Ph.clkHi then s.bit.toNat + 1
  else if s.ph = Ph.waitPre ∨ s.ph = Ph.clkLo ∨ s.ph = Ph.dataSample then s.bit.toNat
  else 0

/-- `h` holds what `s` does in each hidden register, as far as the sequence has written it. -/
structure Hidden.Agrees (h : Hidden) (s : State) : Prop where
  timer : isWait s.ph = true → h.t = s.t
  loop : inLoop s.ph → h.auxs = s.auxs ∧ h.byte = s.byte ∧ h.bit = s.bit
  acc : ∀ i < s.shifted, h.acc.getLsbD i = s.acc.getLsbD i
  s0 : inLoop s.ph → s.byte = 1 ∨ s.ph = Ph.commit → h.s0 = s.s0
  s1 : s.ph = Ph.commit → h.s1 = s.s1

theorem shifted_of_not_inLoop (hp : ¬ inLoop s.ph) : s.shifted = 0 := by
  have hne : ∀ p : BitVec 4, ¬ inLoop p → p ≠ Ph.store ∧ ¬ (p = Ph.waitPost ∨ p = Ph.clkHi) ∧
      ¬ (p = Ph.waitPre ∨ p = Ph.clkLo ∨ p = Ph.dataSample) := by decide
  obtain ⟨hstore, hpost, hpre⟩ := hne s.ph hp
  rw [State.shifted, if_neg hstore, if_neg hpost, if_neg hpre]

/-- Outside the loops nothing has been written that is read later, but the delay counter in WAIT_LATCH. -/
theorem Hidden.Agrees.of_not_inLoop {h : Hidden} (hp : ¬ inLoop s.ph) (ht : isWait s.ph = true → h.t = s.t) :
    h.Agrees s where
  timer := ht
  loop hl := absurd hl hp
  acc i hi := absurd hi (by simp [shifted_of_not_inLoop hp])
  s0 hl := absurd hl hp
  s1 hc := absurd (hc ▸ (by decide : inLoop Ph.commit)) hp

/-- Inside the loops `n` bits of `ACC` are enough where the phase asks for no more, and `S1` is not written yet. -/
theorem Hidden.Agrees.of_loop {h : Hidden} {n : Nat} (hloop : h.auxs = s.auxs ∧ h.byte = s.byte ∧ h.bit = s.bit)
    (hacc : ∀ i < n, h.acc.getLsbD i = s.acc.getLsbD i) (hn : s.shifted ≤ n) (hs0 : s.byte = 1 → h.s0 = s.s0)
    (ht : isWait s.ph = true → h.t = s.t) (hc : s.ph ≠ Ph.commit) : h.Agrees s where
  timer := ht
  loop _ := hloop
  acc i hi := hacc i (hi.trans_le hn)
  s0 _ hb := hs0 (hb.resolve_right hc)
  s1 hp := absurd hp hc

theorem waitTick_withHidden {h : Hidden} (ht : h.t = s.t) (succ : BitVec 4) :
    (s.withHidden h).waitTick succ = (s.waitTick succ).withHidden { h with t := (s.waitTick succ).t } := by
  obtain ⟨acc, s0, s1, auxs, byte, bit, t⟩ := h
  obtain rfl : t = s.t := ht
  change (if s.t > 1 then _ else _) = _
  unfold State.waitTick
  split <;> rfl

theorem WaitExit.exec_eq {p succ : BitVec 4} (hp : WaitExit p succ) (s : State) :
    exec (decodePhase p) s = .next (s.waitTick succ) := by
  cases hp <;> subst p <;> rfl

theorem WaitExit.isWait {p succ : BitVec 4} (hp : WaitExit p succ) : isWait p = true := by
  cases hp <;> subst p <;> rfl

/-- A wait tick moves the delay counter alone, or goes on to the phase with the same loop registers in use. -/
theorem Hidden.Agrees.waitTick {h : Hidden} {succ : BitVec 4} (ha : h.Agrees s) (hp : WaitExit s.ph succ) :
    Hidden.Agrees { h with t := (s.waitTick succ).t } (s.waitTick succ) := by
  rcases s.waitTick_cases succ with ⟨-, hw⟩ | ⟨-, hw⟩ <;> rw [hw]
  · obtain ⟨-, hloop, hacc, hs0, hs1⟩ := ha
    exact ⟨fun _ => rfl, hloop, hacc, hs0, hs1⟩
  · cases hp with
    | latch hp => exact .of_not_inLoop (by simp [inLoop]) fun _ => rfl
    | pre hp | post hp =>
      have hl : inLoop s.ph := by simp [hp, inLoop]
      exact .of_loop (ha.loop hl) ha.acc (by simp [State.shifted, hp]) (fun hb => ha.s0 hl (.inl hb)) (fun _ => rfl)
        (by simp)

/-- Bytes that agree in their low `n` bits agree in one more after the same bit is shifted in. -/
theorem shiftIn_agrees {x y : Byte} {n : Nat} (h : ∀ i < n, x.getLsbD i = y.getLsbD i) (b : Bool) :
    ∀ i < n + 1, (shiftIn x b).getLsbD i = (shiftIn y b).getLsbD i := by
  intro i hi
  rw [shiftIn_getLsbD, shiftIn_getLsbD]
  split
  · rfl
  · rw [h (i - 1) (by omega)]

/-- STORE finds all eight bits of `ACC` written. -/
theorem Hidden.Agrees.acc_of_store {h : Hidden} (ha : h.Agrees s) (hp : s.ph = Ph.store) : h.acc = s.acc :=
  BitVec.eq_of_getLsbD_eq (by simpa [State.shifted, hp] using ha.acc)

/-- The rule of a busy phase reads no hidden register that the sequence has not written. -/
theorem BusyTick.agrees {h : Hidden} (hb : BusyTick s u) (ha : h.Agrees s) :
    ∃ h' : Hidden, exec (decodePhase s.ph) (s.withHidden h) = .next (u.withHidden h') ∧ h'.Agrees u := by
  cases hb with
  | config hp => exact ⟨h, by rw [hp]; rfl, .of_not_inLoop (by simp [inLoop]) nofun⟩
  | latchHi hp =>
    refine ⟨{ h with t := s.params.nLatch % 2 ^ s.params.wT }, by rw [hp]; rfl, ?_⟩
    exact .of_not_inLoop (by simp [inLoop]) fun _ => rfl
  | @wait succ hp =>
    refine ⟨_, ?_, ha.waitTick hp⟩
    rw [hp.exec_eq, waitTick_withHidden (ha.timer hp.isWait)]
  | latchLo hp => exact ⟨h, by rw [hp]; rfl, .of_not_inLoop (by simp [inLoop]) nofun⟩
  | auxSample hp =>
    refine ⟨{ h with auxs := s.pinReadAux, byte := 0, bit := 0, t := s.params.nHalf % 2 ^ s.params.wT },
      by rw [hp]; rfl, ?_⟩
    exact .of_loop (n := 0) ⟨rfl, rfl, rfl⟩ nofun (by simp [State.shifted]) nofun (fun _ => rfl) (by simp)
  | clkLo hp =>
    have hl : inLoop s.ph := by simp [hp, inLoop]
    have hn : State.shifted ((s.writeClock .L).goto Ph.dataSample) = s.shifted := by simp [State.shifted, hp]
    refine ⟨h, by rw [hp]; rfl, ?_⟩
    exact .of_loop (ha.loop hl) ha.acc hn.le (fun hb => ha.s0 hl (.inl hb)) nofun (by simp)
  | dataSample hp =>
    have hl : inLoop s.ph := by simp [hp, inLoop]
    have hn : s.shifted = s.bit.toNat := by simp [State.shifted, hp]
    refine ⟨{ h with acc := shiftIn h.acc (inverted s.pinReadData), t := s.params.nHalf % 2 ^ s.params.wT },
      by rw [hp]; rfl, ?_⟩
    exact .of_loop (ha.loop hl) (shiftIn_agrees ha.acc _) (by rw [hn]; simp [State.shifted])
      (fun hb => ha.s0 hl (.inl hb)) (fun _ => rfl) (by simp)
  | nextBit hp hb =>
    have hl : inLoop s.ph := by simp [hp, inLoop]
    obtain ⟨hauxs, hbyte, hbit⟩ := ha.loop hl
    have hn : s.shifted = s.bit.toNat + 1 := by simp [State.shifted, hp]
    refine ⟨{ h with bit := h.bit + 1, t := s.params.nHalf % 2 ^ s.params.wT }, ?_, ?_⟩
    · rw [hp]
      exact if_pos (hbit ▸ hb : h.bit ≠ 7)
    · exact .of_loop (n := s.shifted) (by simp [hauxs, hbyte, hbit]) (by simpa using ha.acc)
        (by rw [hn]; simpa [State.shifted] using Nat.mod_le _ 8) (fun hb => ha.s0 hl (.inl (by simpa using hb)))
        (fun _ => rfl) (by simp)
  | lastBit hp hb =>
    have hl : inLoop s.ph := by simp [hp, inLoop]
    obtain ⟨hauxs, hbyte, hbit⟩ := ha.loop hl
    have hn : s.shifted = 8 := by simp [State.shifted, hp, hb]
    refine ⟨h, ?_, ?_⟩
    · rw [hp]
      exact if_neg (not_not.2 (hbit.trans hb))
    · exact .of_loop ⟨hauxs, hbyte, hbit⟩ ha.acc (by rw [hn]; simp [State.shifted]) (fun hb => ha.s0 hl (.inl hb)) nofun (by simp)
  | nextByte hp hb =>
    obtain ⟨hauxs, hbyte, -⟩ := ha.loop (by simp [hp, inLoop])
    have hacc : h.acc = s.acc := ha.acc_of_store hp
    refine ⟨{ h with s0 := h.acc, byte := 1, bit := 0, t := s.params.nHalf % 2 ^ s.params.wT }, ?_, ?_⟩
    · rw [hp]
      exact if_pos (hbyte.trans hb)
    · exact .of_loop (n := 0) ⟨hauxs, rfl, rfl⟩ nofun (by simp [State.shifted]) (fun _ => hacc) (fun _ => rfl)
        (by simp)
  | lastByte hp hb =>
    have hl : inLoop s.ph := by simp [hp, inLoop]
    obtain ⟨hauxs, hbyte, hbit⟩ := ha.loop hl
    refine ⟨{ h with s1 := h.acc }, ?_, ?_⟩
    · rw [hp]
      exact if_neg (by rw [show (s.withHidden h).byte = 1 from hbyte.trans hb]; decide)
    · exact ⟨nofun, fun _ => ⟨hauxs, hbyte, hbit⟩, by simp [State.shifted], fun _ _ => ha.s0 hl (.inl hb),
        fun _ => ha.acc_of_store hp⟩
  | commit hp =>
    have hl : inLoop s.ph := by simp [hp, inLoop]
    obtain ⟨hauxs, -, -⟩ := ha.loop hl
    refine ⟨h, ?_, .of_not_inLoop (by simp [inLoop]) nofun⟩
    rw [hp, ← hauxs, ← ha.s0 hl (.inr hp), ← ha.s1 hp]
    rfl
  | reserved hp =>
    refine ⟨h, ?_, .of_not_inLoop (by simp [inLoop]) nofun⟩
    rcases reserved_phase_cases s.ph hp with hp | hp | hp <;> rw [hp] <;> rfl

/-- The tick's end touches no register. -/
theorem Hidden.Agrees.endTick {h : Hidden} (ha : h.Agrees s) : h.Agrees s.endTick := by
  obtain ⟨⟩ := ha
  constructor <;> assumption

theorem Hidden.Agrees.of_idle {h : Hidden} (hi : s.ph = Ph.idle) : h.Agrees s :=
  .of_not_inLoop (by simp [hi, inLoop]) (by simp [hi, isWait])

/-- The four commands neither read nor write a hidden register, and none enters a phase that reads one. -/
theorem exec_command_agrees {h : Hidden} {w : BitVec 3} (hi : s.ph = Ph.idle)
    (hu : exec (decodeCommand w) s = .next u) :
    exec (decodeCommand w) (s.withHidden h) = .next (u.withHidden h) ∧ h.Agrees u := by
  obtain ⟨hinit, hacquire, hchanged, hdecode⟩ := decodeCommand_of_op w
  rcases cmdOp_cases w with ho | ho | ho | ho
  · rw [hinit ho] at hu ⊢
    obtain rfl := Host.Outcome.next.inj hu
    exact ⟨rfl, .of_not_inLoop (by simp [inLoop]) nofun⟩
  · rw [hacquire ho] at hu ⊢
    obtain rfl := Host.Outcome.next.inj hu
    exact ⟨rfl, .of_not_inLoop (by simp [inLoop]) nofun⟩
  · rw [hchanged ho] at hu ⊢
    obtain rfl := Host.Outcome.next.inj hu
    exact ⟨rfl, .of_idle hi⟩
  · rw [hdecode ho, exec_decode_eq] at hu ⊢
    obtain rfl := Host.Outcome.next.inj hu
    exact ⟨by cases cmdD w <;> rfl, .of_idle (by simp [hi])⟩

/-- A step is matched from every state that agrees in the hidden registers that matter. -/
theorem step_agrees {h : Hidden} (hs : step s = .next t) (ha : h.Agrees s) :
    ∃ h' : Hidden, step (s.withHidden h) = .next (t.withHidden h') ∧ h'.Agrees t := by
  have hv : s.params.Valid := step_valid hs
  rcases step_cases hs with ⟨hr, rfl⟩ | ⟨hr, u, hu, rfl⟩
  · refine ⟨s.resetTick.hidden, ?_, .of_idle rfl⟩
    exact step_reset (s := s.withHidden h) hv hr
  have hmatch : ∃ h' : Hidden,
      exec (decodeWord (s.withHidden h).fetchWord) (s.withHidden h) = .next (u.withHidden h') ∧ h'.Agrees u := by
    change ∃ h' : Hidden, exec (decodeWord s.fetchWord) (s.withHidden h) = _ ∧ _
    by_cases hi : s.ph = Ph.idle
    · cases hc : s.port.cmdValid with
      | true =>
        rw [State.fetchWord_command hi hc] at hu ⊢
        exact ⟨h, exec_command_agrees hi hu⟩
      | false =>
        rw [State.fetchWord_quiet hc, hi] at hu ⊢
        obtain rfl := Host.Outcome.next.inj hu
        exact ⟨h, rfl, .of_idle hi⟩
    · rw [State.fetchWord_busy hi] at hu ⊢
      obtain ⟨u', hu', hb⟩ := exec_busy hi
      obtain rfl := Host.Outcome.next.inj (hu.symm.trans hu')
      exact hb.agrees ha
  obtain ⟨h', hexec, ha'⟩ := hmatch
  exact ⟨h', step_exec (s := s.withHidden h) hv hr hexec, ha'.endTick⟩

theorem run_completes (n : Nat) (hv : s.params.Valid) : ∃ t, run n s = .next t := by
  induction n generalizing s with
  | zero => exact ⟨s, rfl⟩
  | succ n ih =>
    obtain ⟨u, hu⟩ := step_completes hv
    rw [run_succ hu]
    exact ih (step_params hu ▸ hv)

theorem run_agrees {h : Hidden} {n : Nat} (hs : run n s = .next t) (ha : h.Agrees s) :
    ∃ h' : Hidden, run n (s.withHidden h) = .next (t.withHidden h') ∧ h'.Agrees t := by
  induction n generalizing t with
  | zero => cases hs; exact ⟨h, rfl, ha⟩
  | succ n ih =>
    obtain ⟨u, hu, hut⟩ := run_last hs
    obtain ⟨h', hu', ha'⟩ := ih hu
    obtain ⟨h'', hut', ha''⟩ := step_agrees hut ha'
    refine ⟨h'', ?_, ha''⟩
    rw [run_add hu' 1, run_succ hut', run_zero]

/-- Settles O50: in IDLE every choice of the hidden registers agrees, and no port shows one. -/
theorem hiddenStateNeverObserved : Obligations.HiddenStateNeverObserved := by
  intro n s acc s0 s1 auxs byte bit t hv hi
  obtain ⟨u, hu⟩ := run_completes n hv
  obtain ⟨h', hrun, -⟩ := run_agrees (h := ⟨acc, s0, s1, auxs, byte, bit, t⟩) hu (.of_idle hi)
  exact ⟨u, u.withHidden h', hu, hrun, (u.withHidden_ports h').symm⟩

end Sys2Proof.Machine
end

section
/-! The two input lines (20_memory.md): in which ticks their levels matter (R66), and where the levels read in an
acquisition stand in `LR` (R61). -/

namespace Sys2Proof.Machine

variable {s : State}

/-! ### When a line is read -/

/-- Encoding undoes decoding: no two words, of one format or of both, stand for the same instruction. -/
@[simp] theorem encode_decodeWord (w : FetchWord) : encode (decodeWord w) = w := by
  cases w with
  | cmd c => revert c; decide
  | phase p => revert p; decide

/-- The rule of a phase runs only while `PH` holds that phase. -/
theorem State.ph_eq_of_fetch {p : BitVec 4} (h : decodeWord s.fetchWord = decodePhase p) : s.ph = p := by
  have hword : s.fetchWord = .phase p := by
    rw [← encode_decodeWord s.fetchWord, h]
    exact encode_decodeWord (.phase p)
  rw [State.fetchWord] at hword
  split at hword <;> cases hword
  rfl

/-- Of the input ports a step reads `rst`, what it fetches, and each line in its sample phase; the rest is ignored. -/
theorem step_withPort {j : TickInput} (hr : j.rst = s.port.rst) (hf : (s.withPort j).fetchWord = s.fetchWord)
    (hd : s.ph = Ph.dataSample → j.data = s.port.data) (ha : s.ph = Ph.auxSample → j.aux = s.port.aux) :
    step (s.withPort j) = step s := by
  by_cases hv : s.params.Valid
  · cases hrst : s.port.rst with
    | true => exact (step_reset (s := s.withPort j) hv (hr.trans hrst)).trans (step_reset hv hrst).symm
    | false =>
      obtain ⟨t, ht⟩ := exec_completes (decodeWord s.fetchWord) s
      have htj : exec (decodeWord (s.withPort j).fetchWord) (s.withPort j) = .next (t.withPort j) := by
        rw [hf]
        exact exec_withPort j (fun h => hd (State.ph_eq_of_fetch h)) (fun h => ha (State.ph_eq_of_fetch h)) ht
      rw [step_exec hv hrst ht, step_exec (s := s.withPort j) hv (hr.trans hrst) htj, State.withPort_self_tail]
  · rw [step_inadmissible hv, step_inadmissible (s := s.withPort j) hv]

/-- Settles O12: a step outside DATA_SAMPLE does not read DATA, and one outside AUX_SAMPLE does not read AUX. -/
theorem linesIgnoredOutsideSampleTicks : Obligations.LinesIgnoredOutsideSampleTicks :=
  fun _ _ =>
    ⟨fun hp => step_withPort rfl rfl (fun h => absurd h hp) fun _ => rfl,
      fun hp => step_withPort rfl rfl (fun _ => rfl) fun h => absurd h hp⟩

/-! ### Where a level read stands in `LR` -/

@[simp] theorem inverted_eq_true_iff (l : Level) : inverted l = true ↔ l = .L := by cases l <;> decide

theorem auxByte_eq (a : Level) : auxByte a = if a = .L then 0x01 else 0x00 := by cases a <;> rfl

/-- The first eight levels fill byte 0, the first of them its most significant bit. -/
theorem acquisition_b0_getLsbD (a : Level) (d : Fin 16 → Level) (i : Fin 8) :
    (acquisition a d).b0.getLsbD (7 - i.val) = inverted (d (i.castAdd 8)) :=
  packByte_getLsbD (fun i => inverted (d (i.castAdd 8))) i

/-- The last eight levels fill byte 1, the first of them its most significant bit. -/
theorem acquisition_b1_getLsbD (a : Level) (d : Fin 16 → Level) (i : Fin 8) :
    (acquisition a d).b1.getLsbD (7 - i.val) = inverted (d (i.natAdd 8)) :=
  packByte_getLsbD (fun i => inverted (d (i.natAdd 8))) i

/-- Settles O23: sample `k` is level `k mod 8` of its byte, and an inverted level is 1 exactly for L. -/
theorem sampleBitsAreMsbFirstInverted : Obligations.SampleBitsAreMsbFirstInverted := by
  refine fun s a d => ⟨fun k hk => ?_, fun k hk => ?_, auxByte_eq a⟩
  · have hbit := acquisition_b0_getLsbD a d ⟨k.val % 8, Nat.mod_lt _ (by decide)⟩
    have hki : Fin.castAdd 8 ⟨k.val % 8, Nat.mod_lt _ (by decide)⟩ = k := Fin.ext (show k.val % 8 = k.val by omega)
    rw [hki] at hbit
    rw [← inverted_eq_true_iff, ← hbit]
    rfl
  · have hbit := acquisition_b1_getLsbD a d ⟨k.val % 8, Nat.mod_lt _ (by decide)⟩
    have hki : Fin.natAdd 8 ⟨k.val % 8, Nat.mod_lt _ (by decide)⟩ = k :=
      Fin.ext (show 8 + k.val % 8 = k.val by omega)
    rw [hki] at hbit
    rw [← inverted_eq_true_iff, ← hbit]
    rfl

end Sys2Proof.Machine
end

section
/-! Words as bytes (30_encoding.md R81 to R83, R94; log 9): what a byte decodes to in a format, and when it is refused. -/

namespace Sys2Proof.Machine

/-! ### The word a byte holds -/

/-- The bits of a byte from bit `k` up are 0 exactly when its value is below `2 ^ k`. -/
theorem highBits_eq_zero_iff (b : Byte) {k n : Nat} (hkn : 8 ≤ k + n) : b.extractLsb' k n = 0 ↔ b.toNat < 2 ^ k := by
  have hb : b.toNat / 2 ^ k < 2 ^ n := by
    rw [Nat.div_lt_iff_lt_mul (Nat.two_pow_pos k), ← Nat.pow_add, Nat.add_comm]
    exact b.isLt.trans_le (Nat.pow_le_pow_right (by decide) hkn)
  rw [← BitVec.toNat_inj, BitVec.extractLsb'_toNat, Nat.shiftRight_eq_div_pow, Nat.mod_eq_of_lt hb]
  exact Nat.div_eq_zero_iff_lt (Nat.two_pow_pos k)

/-- A byte whose high bits are 0 is its low bits laid out as a byte again. -/
theorem setWidth_setWidth_of_highBits {b : Byte} {k n : Nat} (hkn : 8 ≤ k + n) (h : b.extractLsb' k n = 0) :
    (b.setWidth k).setWidth 8 = b := by
  have hb := (highBits_eq_zero_iff b hkn).1 h
  apply BitVec.eq_of_toNat_eq
  rw [BitVec.toNat_setWidth, BitVec.toNat_setWidth, Nat.mod_eq_of_lt hb, Nat.mod_eq_of_lt b.isLt]

/-- A word laid out as a byte has no bit above its width. -/
theorem highBits_setWidth {k n : Nat} (hkn : 8 ≤ k + n) (w : BitVec k) : (w.setWidth 8).extractLsb' k n = 0 := by
  rw [highBits_eq_zero_iff _ hkn, BitVec.toNat_setWidth]
  exact (Nat.mod_le _ _).trans_lt w.isLt

/-- A word is read back from its byte in its own format. -/
@[simp] theorem wordOfByte_toByte (w : FetchWord) : wordOfByte w.format w.toByte = .ok w := by
  cases w with
  | cmd w =>
    refine (if_pos (highBits_setWidth (by decide) w)).trans ?_
    simp [FetchWord.toByte]
  | phase w =>
    refine (if_pos (highBits_setWidth (by decide) w)).trans ?_
    simp [FetchWord.toByte]

/-- A byte holds exactly the word of the format that is laid out as that byte. -/
theorem wordOfByte_eq_ok_iff {f : Format} {b : Byte} {w : FetchWord} :
    wordOfByte f b = .ok w ↔ w.format = f ∧ w.toByte = b := by
  constructor
  · intro h
    cases f <;> rw [wordOfByte] at h <;> split at h <;> cases h
    next hb => exact ⟨rfl, setWidth_setWidth_of_highBits (by decide) hb⟩
    next hb => exact ⟨rfl, setWidth_setWidth_of_highBits (by decide) hb⟩
  · rintro ⟨rfl, rfl⟩
    exact wordOfByte_toByte w

/-- A byte holds no word of a format exactly when its value does not fit the format's width. -/
theorem wordOfByte_eq_strayBits_iff {f : Format} {b : Byte} :
    wordOfByte f b = .error .strayBits ↔ 2 ^ Laws.formatWidth f ≤ b.toNat := by
  have hfit : b.extractLsb' (Laws.formatWidth f) (8 - Laws.formatWidth f) = 0 ↔ b.toNat < 2 ^ Laws.formatWidth f :=
    highBits_eq_zero_iff b (by omega)
  rw [← Nat.not_lt, ← hfit]
  cases f
  · exact Ne.ite_eq_right_iff nofun
  · exact Ne.ite_eq_right_iff nofun

/-! ### Decoding bytes -/

/-- Decoding undoes encoding: every instruction is what its word stands for. -/
@[simp] theorem decodeWord_encode (i : Instr) : decodeWord (encode i) = i := by
  cases i
  case init d | acquire d | changed d | decode d => cases d <;> rfl
  all_goals rfl

theorem decodeBytes_cons_eq_ok_iff {f : Format} {b : Byte} {rest left : List Byte} {i : Instr} :
    decodeBytes f (b :: rest) = .ok (i, left) ↔ left = rest ∧ (encode i).format = f ∧ encodeByte i = b := by
  have hword : decodeBytes f (b :: rest) = .ok (i, left) ↔ left = rest ∧ wordOfByte f b = .ok (encode i) := by
    rw [decodeBytes]
    cases hw : wordOfByte f b with
    | error e => simp
    | ok w =>
      have hi : decodeWord w = i ↔ w = encode i :=
        ⟨fun h => by rw [← h, encode_decodeWord], fun h => by rw [h, decodeWord_encode]⟩
      simp [hi, and_comm, eq_comm (a := rest)]
  rw [hword, wordOfByte_eq_ok_iff, encodeByte]

theorem decodeBytes_cons_eq_strayBits_iff {f : Format} {b : Byte} {rest : List Byte} :
    decodeBytes f (b :: rest) = .error .strayBits ↔ 2 ^ Laws.formatWidth f ≤ b.toNat := by
  rw [← wordOfByte_eq_strayBits_iff, decodeBytes]
  cases wordOfByte f b <;> simp

/-- Settles O1: both directions are one equivalence, read from right to left and from left to right. -/
theorem decodeInvertsEncodeOnBytes : Obligations.DecodeInvertsEncodeOnBytes :=
  ⟨fun _ _ => decodeBytes_cons_eq_ok_iff.2 ⟨rfl, rfl, rfl⟩, fun _ _ _ _ _ => decodeBytes_cons_eq_ok_iff.1⟩

/-- Settles O2: the only refusal of a byte is that its value does not fit the format. -/
theorem decodeRefusesExactlyStrayBits : Obligations.DecodeRefusesExactlyStrayBits :=
  ⟨fun _ => rfl, fun _ _ => decodeBytes_cons_eq_strayBits_iff, fun _ _ => decodeBytes_cons_eq_strayBits_iff⟩

/-- Settles O3, each word by evaluation. -/
theorem listedWordsDecode : Obligations.ListedWordsDecode := by
  unfold Obligations.ListedWordsDecode
  decide

end Sys2Proof.Machine
end

section
/-! The command port (30_encoding.md R83, R84): what a step makes of bit `d` of a word that does not use it, and of a
command presented while the block is busy. -/

namespace Sys2Proof.Machine

variable {s t u : State}

/-- A word is put together from the fields it is taken apart into (30_encoding.md R81). -/
@[simp] theorem cmdOp_append (d : BitVec 1) (op : BitVec 2) : cmdOp (d ++ op) = op :=
  BitVec.extractLsb'_append_eq_right

/-- INIT, ACQUIRE and CHANGED do not examine `d` (30_encoding.md R83). -/
theorem exec_command_ignores_d {w w' : BitVec 3} (hop : cmdOp w' = cmdOp w) (hd : cmdOp w ≠ Op.decode) (s : State) :
    exec (decodeCommand w') s = exec (decodeCommand w) s := by
  obtain ⟨hi, ha, hc, -⟩ := decodeCommand_of_op w
  obtain ⟨hi', ha', hc', -⟩ := decodeCommand_of_op w'
  rw [hop] at hi' ha' hc'
  rcases cmdOp_cases w with h | h | h | h
  · rw [hi h, hi' h]; rfl
  · rw [ha h, ha' h]; rfl
  · rw [hc h, hc' h]; rfl
  · exact absurd h hd

theorem decodeCommand_ne_sample (w : BitVec 3) : decodeCommand w ≠ .dataSample ∧ decodeCommand w ≠ .auxSample := by
  revert w; decide

/-- A command's meaning reads no input port. -/
theorem exec_command_withPort {w : BitVec 3} (j : TickInput) (h : exec (decodeCommand w) s = .next u) :
    exec (decodeCommand w) (s.withPort j) = .next (u.withPort j) :=
  have ⟨hdata, haux⟩ := decodeCommand_ne_sample w
  exec_withPort j (absurd · hdata) (absurd · haux) h

/-- Past the end of the list of inputs no command is presented, so a presented one stands at its head. -/
theorem State.inputs_of_presents {w : BitVec 3} (h : s.Presents w) : s.inputs = s.port :: s.inputs.tail := by
  obtain ⟨hv, -⟩ := h
  unfold State.port at hv ⊢
  cases hin : s.inputs with
  | nil => rw [hin] at hv; cases hv
  | cons i is => rfl

/-- Two words with one `op` that is not DECODE, accepted in states that differ in the ports of this tick alone, lead to
the same state. -/
theorem step_withPort_of_same_op {j : TickInput} {w w' : BitVec 3} (hop : cmdOp w' = cmdOp w)
    (hd : cmdOp w ≠ Op.decode) (hw : s.Accepts w) (hw' : (s.withPort j).Accepts w') :
    step (s.withPort j) = step s := by
  by_cases hv : s.params.Valid
  · obtain ⟨hr, hp, hpres⟩ := hw
    obtain ⟨hr', hp', hpres'⟩ := hw'
    obtain ⟨u, hu⟩ := exec_completes (decodeCommand w) s
    have hu' : exec (decodeCommand w') (s.withPort j) = .next (u.withPort j) := by
      rw [exec_command_ignores_d hop hd]
      exact exec_command_withPort j hu
    rw [step_command hv hr hp hpres hu, step_command (s := s.withPort j) hv hr' hp' hpres' hu', State.withPort_self_tail]
  · rw [step_inadmissible hv, step_inadmissible (s := s.withPort j) hv]

/-- Settles O4: there are four operation numbers, every tick completes, and the word with `d = 1` is the word with
`d = 0` at another port. -/
theorem reservedWordsRunAsUnreserved : Obligations.ReservedWordsRunAsUnreserved := by
  refine ⟨fun w => ⟨cmdD w, ?_⟩, fun s hv => step_completes hv, fun s t op hop hs ht hst htail => ?_⟩
  · obtain ⟨hi, ha, hc, hd⟩ := decodeCommand_of_op w
    exact (cmdOp_cases w).imp hi (Or.imp ha (Or.imp hc hd))
  · have hport : t = s.withPort t.port := by
      have hin : t.inputs = t.port :: s.inputs.tail := htail ▸ State.inputs_of_presents ht.2.2
      rw [State.withPort, ← hin]
      exact hst
    rw [hport] at ht ⊢
    exact step_withPort_of_same_op (by simp) (by simpa using hop) hs ht

/-- Settles O11: in a busy tick the phase's rule is fetched, and no rule reads the command inputs. -/
theorem commandWhileBusyIsLost : Obligations.CommandWhileBusyIsLost := by
  intro s valid word hb
  have hp : s.ph ≠ Ph.idle := bne_iff_ne.1 hb
  have hfetch (j : TickInput) : (s.withPort j).fetchWord = s.fetchWord :=
    (State.fetchWord_busy (s := s.withPort j) hp).trans (State.fetchWord_busy hp).symm
  exact step_withPort rfl (hfetch _) (fun _ => rfl) (fun _ => rfl)

end Sys2Proof.Machine
end

section
/-! Polling and reports (30_encoding.md R88, R93, R96). -/

namespace Sys2Proof.Machine

/-! ### A polling cycle -/

/-- A cycle that finds the old baseline again ends with the answer 0. -/
theorem opPoll_of_eq {a : Level} {d : Fin 16 → Level} {s : State} (h : acquisition a d = s.lp) :
    opPoll a d s = { opAcquire a d s with ret := 0x00 } := by
  have hret : (opChanged (opAcquire a d s)).ret = 0x00 := if_pos h
  rw [opPoll, if_neg (not_not.2 hret), ← hret]
  rfl

/-- A cycle that finds another sample ends with the answer 1 and a DECODE of that sample. -/
theorem opPoll_of_ne {a : Level} {d : Fin 16 → Level} {s : State} (h : acquisition a d ≠ s.lp) :
    opPoll a d s = opDecode true { opAcquire a d s with ret := 0x01 } := by
  have hret : (opChanged (opAcquire a d s)).ret = 0x01 := if_neg h
  rw [opPoll, if_pos (by rw [hret]; decide), ← hret]
  rfl

/-- Settles O22: by whether the sample is the old baseline. -/
theorem pollConsumesChange : Obligations.PollConsumesChange := by
  intro a d s
  by_cases h : acquisition a d = s.lp
  · rw [opPoll_of_eq h]
    exact ⟨h.symm, rfl, fun hne => absurd h hne, fun _ => ⟨rfl, rfl⟩⟩
  · rw [opPoll_of_ne h]
    exact ⟨rfl, rfl, fun _ => ⟨rfl, rfl⟩, fun heq => absurd heq h⟩

/-! ### The fields of the 41 bits -/

section
variable (r : Report)

theorem Report.flatten_kind : r.flatten.extractLsb' 40 1 = r.kind.toBit := by
  rw [Report.flatten, BitVec.extractLsb'_append_eq_of_le (by decide), BitVec.extractLsb'_append_eq_of_le (by decide),
    BitVec.extractLsb'_append_eq_of_le (by decide)]
  exact BitVec.extractLsb'_append_eq_left

/-- The mask stands at bit 24: a field of it is a field of the 41 bits, 24 bits further up. -/
theorem Report.flatten_mask16_field {i n : Nat} (h : i + n ≤ 16) :
    r.flatten.extractLsb' (24 + i) n = r.mask16.extractLsb' i n := by
  rw [Report.flatten, BitVec.extractLsb'_append_eq_of_le (by omega), BitVec.extractLsb'_append_eq_of_le (by omega),
    BitVec.extractLsb'_append_eq_of_le (by omega), show 24 + i - 8 - 8 - 8 = i by omega,
    BitVec.extractLsb'_append_eq_of_add_le h]

theorem Report.flatten_mask16 : r.flatten.extractLsb' 24 16 = r.mask16 :=
  (r.flatten_mask16_field (i := 0) (by decide)).trans BitVec.extractLsb'_eq_self

theorem Report.flatten_raw0 : r.flatten.extractLsb' 16 8 = r.raw0 := by
  rw [Report.flatten, BitVec.extractLsb'_append_eq_of_le (by decide), BitVec.extractLsb'_append_eq_of_le (by decide)]
  exact BitVec.extractLsb'_append_eq_right

theorem Report.flatten_raw1 : r.flatten.extractLsb' 8 8 = r.raw1 := by
  rw [Report.flatten, BitVec.extractLsb'_append_eq_of_le (by decide)]
  exact BitVec.extractLsb'_append_eq_right

theorem Report.flatten_raw2 : r.flatten.extractLsb' 0 8 = r.raw2 := BitVec.extractLsb'_append_eq_right

end

/-- The report of a sample in NES mode (44_button_decoder.md R191). -/
theorem reportOf_of_nes {r : RawSample} (h : modeOf r.b1 = .nes) : reportOf r = .nes r.b0 r.b0 r.b2 := by
  rw [reportOf, h]

/-- The report of a sample in SNES mode (44_button_decoder.md R192). -/
theorem reportOf_of_snes {r : RawSample} (h : modeOf r.b1 = .snes) :
    reportOf r = .snes (snesMask r.b0 r.b1) r.b0 r.b1 r.b2 := by
  rw [reportOf, h]

/-- Settles O26: `flatten` is taken apart field by field, and the two halves of the mask are `0x00` or byte 1, and
byte 0. -/
theorem reportLayout : Obligations.ReportLayout := by
  have hhigh (q : Report) : q.flatten.extractLsb' 32 8 = q.mask16.extractLsb' 8 8 :=
    q.flatten_mask16_field (i := 8) (by decide)
  have hlow (q : Report) : q.flatten.extractLsb' 24 8 = q.mask16.extractLsb' 0 8 :=
    q.flatten_mask16_field (i := 0) (by decide)
  refine ⟨fun s => ?_, fun r => ⟨fun h => ?_, fun h => ?_⟩⟩
  · rw [s.rpt.flatten_kind, s.rpt.flatten_mask16, s.rpt.flatten_raw0, s.rpt.flatten_raw1, s.rpt.flatten_raw2]
    exact ⟨rfl, rfl, rfl, rfl, rfl⟩
  · rw [reportOf_of_nes h, Report.flatten_kind, hhigh, hlow, Report.flatten_raw0, Report.flatten_raw1,
      Report.flatten_raw2]
    exact ⟨rfl, BitVec.extractLsb'_append_eq_left, BitVec.extractLsb'_append_eq_right, rfl, rfl, rfl⟩
  · rw [reportOf_of_snes h, Report.flatten_kind, hhigh, hlow, Report.flatten_raw0, Report.flatten_raw1,
      Report.flatten_raw2]
    exact ⟨rfl, BitVec.extractLsb'_append_eq_left, BitVec.extractLsb'_append_eq_right, rfl, rfl, rfl⟩

/-! ### The bits of the mask -/

theorem snesMask_getLsbD_low {b0 b1 : Byte} {i : Nat} (h : i < 8) : (snesMask b0 b1).getLsbD i = b0.getLsbD i := by
  rw [snesMask, BitVec.getLsbD_append, if_pos h]

theorem snesMask_getLsbD_high {b0 b1 : Byte} {i : Nat} (h : 8 ≤ i) :
    (snesMask b0 b1).getLsbD i = b1.getLsbD (i - 8) := by
  rw [snesMask, BitVec.getLsbD_append, if_neg (Nat.not_lt.2 h)]

/-- Which bit of the SNES mask a sample is: within each byte the first sample is the most significant bit. -/
theorem snesMask_acquisition_getLsbD (a : Level) (d : Fin 16 → Level) (k : Fin 16) :
    (snesMask (acquisition a d).b0 (acquisition a d).b1).getLsbD (if k.val < 8 then 7 - k.val else 23 - k.val) =
      inverted (d k) := by
  refine Fin.addCases (m := 8) (n := 8) (fun i => ?_) (fun i => ?_) k
  · rw [Fin.val_castAdd, if_pos i.isLt, snesMask_getLsbD_low (by omega)]
    exact acquisition_b0_getLsbD a d i
  · rw [Fin.val_natAdd, if_neg (by omega), snesMask_getLsbD_high (by omega),
      show 23 - (8 + i.val) - 8 = 7 - i.val by omega]
    exact acquisition_b1_getLsbD a d i

/-- In SNES mode bits 3 to 0 of byte 1 are 1 (43_mode_detector.md R180). -/
theorem getLsbD_of_modeOf_snes {b : Byte} (h : modeOf b = .snes) {i : Nat} (hi : i < 4) : b.getLsbD i = true := by
  have hmask : (0x0F : Byte).getLsbD i = true := by interval_cases i <;> rfl
  have hb : (b &&& 0x0F).getLsbD i = true := by rw [(modeOf_eq_snes_iff b).1 h, hmask]
  rwa [BitVec.getLsbD_and, hmask, Bool.and_true] at hb

/-- Settles O27: the SNES mask is the sixteen samples, its idle nibble the one that makes the mode SNES. -/
theorem snesMaskBits : Obligations.SnesMaskBits := by
  refine fun a d => ⟨fun h => ?_, fun h => ?_⟩
  · rw [reportOf_of_snes h]
    refine ⟨fun k => ?_, fun j hj hj' => ?_⟩
    · rw [Report.mask16, snesMask_acquisition_getLsbD, inverted_eq_true_iff]
    · rw [Report.mask16, snesMask_getLsbD_high hj]
      exact getLsbD_of_modeOf_snes h (by omega)
  · rw [reportOf_of_nes h]
    exact BitVec.extractLsb'_append_eq_right

end Sys2Proof.Machine
end

section
/-! The Initializer (40_initializer.md): CONFIG, a later INIT, and the whole INIT sequence, which is the configuration
followed by the acquisition that begins in LATCH_HI. -/

namespace Sys2Proof.Machine

variable {s : State}

/-! ### The line configuration (40_initializer.md R110, R111) -/

/-- `s` with its lines configured: the pads as CONFIG sets them, both lines at their idle levels. -/
def State.configured (s : State) : State := { s with cfg := 0b1111, latch := .L, clock := .H }

theorem opInit_eq (a : Level) (d : Fin 16 → Level) (s : State) : opInit a d s = opAcquire a d s.configured := rfl

theorem exec_config_eq (s : State) : exec .config s = .next (s.configured.goto Ph.latchHi) := rfl

/-- With the lines configured the latch is driven low, the clock high, and both pull-ups are on. -/
theorem State.configured_pads (s : State) :
    s.configured.ports.latchLine = some .L ∧ s.configured.ports.clockLine = some .H ∧
      s.configured.ports.dataPue = true ∧ s.configured.ports.auxPue = true := by
  simp [State.ports, State.configured, State.latchOe, State.clockOe, State.dataPue, State.auxPue, lineDriven]

/-- Configuring configured lines changes nothing. -/
theorem State.configured_eq_self (hc : s.cfg = 0b1111) (hl : s.latch = .L) (hk : s.clock = .H) : s.configured = s := by
  rw [State.configured, ← hc, ← hl, ← hk]

/-- Settles O30: CONFIG configures the lines, and `PH` shows at none of the pads. -/
theorem configAppliesLineConfiguration : Obligations.ConfigAppliesLineConfiguration := by
  refine fun s => ⟨exec_config_eq s, fun t h => ?_⟩
  rw [exec_config_eq] at h
  obtain rfl := Host.Outcome.next.inj h
  exact s.configured_pads

/-- Settles O53: INIT is ACQUIRE from the configured state, which here is the state itself. -/
theorem laterInitIsAnAcquire : Obligations.LaterInitIsAnAcquire := by
  intro s a d hc hl hk
  rw [opInit_eq, State.configured_eq_self hc hl hk]
  exact ⟨rfl, rfl, rfl, rfl⟩

/-! ### What later ticks see -/

/-- What is free of reset from this tick on is so from the next. -/
theorem State.NoReset.endTick {n : Nat} (h : s.NoReset (n + 1)) : s.endTick.NoReset n := fun k hk => by
  rw [State.endTick_portAt]
  exact h (k + 1) (Nat.succ_lt_succ hk)

@[simp] theorem State.endTick_auxLevelAt (s : State) (cfg : BitVec 4) (n : Nat) :
    s.endTick.auxLevelAt cfg n = s.auxLevelAt cfg (n + 1) := by
  have hdraw : s.endTick.draw + n = s.draw + (n + 1) := Nat.succ_add_eq_add_succ s.draw n
  rw [State.auxLevelAt, State.auxLevelAt, State.endTick_portAt, hdraw]

@[simp] theorem State.endTick_dataLevelAt (s : State) (cfg : BitVec 4) (n : Nat) :
    s.endTick.dataLevelAt cfg n = s.dataLevelAt cfg (n + 1) := by
  have hdraw : s.endTick.draw + n = s.draw + (n + 1) := Nat.succ_add_eq_add_succ s.draw n
  rw [State.dataLevelAt, State.dataLevelAt, State.endTick_portAt, hdraw]

/-! ### From LATCH_HI to IDLE (41_acquirer.md R148) -/

/-- The level sampled on AUX by an acquisition that stands in LATCH_HI. -/
def Acq.sampledAux (s : State) : Level := s.auxLevelAt s.cfg (s.params.nLatch + 2)

/-- The level it samples on DATA in bit `k`. -/
def Acq.sampledData (s : State) (k : Nat) : Level :=
  s.dataLevelAt s.cfg (bitStart s.params.nHalf s.params.nLatch k + s.params.nHalf + 1)

/-- The end of an acquisition that began `n` ticks ago in `s` and sampled `a` and `d`: ACQUIRE(a, d) of the operation
level, in IDLE, with what the sequence leaves in the staging registers and counters. -/
def Acq.finished (s : State) (a : Level) (d : Fin 16 → Level) (n : Nat) : State :=
  { opAcquire a d s with
    ph := Ph.idle, s0 := (acquisition a d).b0, s1 := (acquisition a d).b1, acc := (acquisition a d).b1, auxs := a,
    byte := 1, bit := 7, t := 1, inputs := s.inputs.drop n, draw := s.draw + n }

/-- What COMMIT makes of a state that holds both sampled bytes and `AUXS`. -/
theorem Acq.Frame.commit_eq_finished {u : State} {a : Level} {d : Nat → Level} {n : Nat} (F : Frame s u n)
    (hf : BitFrame u a d 15) (ht : u.t = 1) (hc : u.clock = .H) (h1 : u.s1 = (acquisition a (levels d)).b1)
    (hacc : u.acc = (acquisition a (levels d)).b1) :
    State.endTick { u with lr := { b0 := u.s0, b1 := u.s1, b2 := auxByte u.auxs }, ret := 0x00, ph := Ph.idle } =
      finished s a (levels d) (n + 1) := by
  have h0 : u.s0 = (acquisition a (levels d)).b0 := hf.s0 (by decide)
  simp only [State.endTick, finished, opAcquire, h0, h1, hacc, ht, hc, hf.latch, hf.auxs, hf.byte, hf.bit, F.params,
    F.lp, F.rpt, F.rptValid, F.cfg, F.inputs, F.draw, List.tail_drop, Nat.add_assoc]
  rfl

/-- Every acquisition runs from LATCH_HI to its COMMIT and ends there, as ACQUIRE of the levels in its seventeen sample
ticks. It began one tick after an ACQUIRE was accepted. -/
theorem Acq.run_finished {n : Nat} (hv : s.params.Valid) (hp : s.ph = Ph.latchHi)
    (hn : n + 1 = Timing.acquireTicks s.params) (hr : s.NoReset n) :
    run n s = .next (finished s (sampledAux s) (levels (sampledData s)) n) := by
  have hlen := bitStart_fifteen s.params.nHalf s.params.nLatch
  obtain ⟨m, rfl⟩ : ∃ m, n = m + 1 := ⟨n - 1, by rw [Timing.acquireTicks] at hn; omega⟩
  have hm : m = bitStart s.params.nHalf s.params.nLatch 15 + (2 * s.params.nHalf + 3) + 1 := by
    rw [Timing.acquireTicks] at hn
    omega
  obtain ⟨u, hu, F, hS⟩ :=
    run_standing (a := sampledAux s) (d := sampledData s) hv hp m (hr.mono (Nat.le_succ m)) rfl (fun _ _ => rfl) hm.le
  have hrst : u.port.rst = false := by
    have hport : u.port = s.portAt m := by rw [State.port, State.portAt, F.inputs]
    rw [hport]
    exact hr m (Nat.lt_succ_self m)
  have hcommit : Standing s u (sampledAux s) (sampledData s) _ := hm ▸ hS
  obtain ⟨hph, hf, ht, hc, h1, hacc⟩ := hcommit.at_commit
  rw [run_add hu 1, run_succ (step_commit hrst hph (F.params ▸ hv)), run_zero,
    F.commit_eq_finished hf ht hc h1 hacc]

/-! ### The two ticks of an INIT before LATCH_HI -/

/-- An accepted INIT stands in LATCH_HI two ticks later, with its lines configured. -/
def State.afterConfig (s : State) : State := ((s.goto Ph.config).endTick.configured.goto Ph.latchHi).endTick

@[simp] theorem State.afterConfig_params (s : State) : s.afterConfig.params = s.params := rfl

@[simp] theorem State.afterConfig_auxLevelAt (s : State) (cfg : BitVec 4) (n : Nat) :
    s.afterConfig.auxLevelAt cfg n = s.auxLevelAt cfg (n + 2) :=
  (State.endTick_auxLevelAt _ cfg n).trans (s.endTick_auxLevelAt cfg (n + 1))

@[simp] theorem State.afterConfig_dataLevelAt (s : State) (cfg : BitVec 4) (n : Nat) :
    s.afterConfig.dataLevelAt cfg n = s.dataLevelAt cfg (n + 2) :=
  (State.endTick_dataLevelAt _ cfg n).trans (s.endTick_dataLevelAt cfg (n + 1))

theorem State.NoReset.afterConfig {n : Nat} (h : s.NoReset (n + 2)) : s.afterConfig.NoReset n :=
  h.endTick.endTick

theorem run_afterConfig {w : BitVec 3} {n : Nat} (hv : s.params.Valid) (ha : s.Accepts w) (hop : cmdOp w = Op.init)
    (hr : s.NoReset (n + 2)) : run (n + 2) s = run n s.afterConfig := by
  obtain ⟨hrst, hp, hw⟩ := ha
  have hinit : exec (decodeCommand w) s = .next (s.goto Ph.config) := by
    obtain ⟨hdec, -⟩ := decodeCommand_of_op w
    rw [hdec hop]
    rfl
  have hnext : (s.goto Ph.config).endTick.port.rst = false := hr.endTick.now
  rw [run_succ (step_command hv hrst hp hw hinit), run_succ (step_config hnext rfl hv)]
  rfl

/-- INIT samples with both pull-ups on, one tick later than an ACQUIRE would (41_acquirer.md R149). -/
theorem Acq.sampledAux_afterConfig (s : State) :
    Acq.sampledAux s.afterConfig = s.auxLevelAt 0b1111 (Timing.auxTick s.params + 1) :=
  s.afterConfig_auxLevelAt 0b1111 (s.params.nLatch + 2)

theorem Acq.sampledData_afterConfig (s : State) (k : Nat) :
    Acq.sampledData s.afterConfig k = s.dataLevelAt 0b1111 (Timing.dataTick s.params k + 1) := by
  have htick : Acq.bitStart s.params.nHalf s.params.nLatch k + s.params.nHalf + 1 + 2 =
      Timing.dataTick s.params k + 1 := by
    rw [Timing.dataTick, ← Acq.bitStart_eq]
    omega
  rw [← htick]
  exact s.afterConfig_dataLevelAt 0b1111 _

/-- The two ticks before LATCH_HI only add to the count: INIT's end is its operation on the start state. -/
theorem Acq.finished_afterConfig (s : State) (a : Level) (d : Fin 16 → Level) (n : Nat) :
    Acq.finished s.afterConfig a d n = Acq.finished s.configured a d (n + 2) := by
  have hinputs : s.afterConfig.inputs.drop n = s.inputs.drop (n + 2) := by
    change (s.inputs.tail.tail).drop n = _
    rw [List.drop_tail, List.drop_tail]
  have hdraw : s.afterConfig.draw + n = s.draw + (n + 2) := by
    change s.draw + 1 + 1 + n = _
    omega
  rw [Acq.finished, hinputs, hdraw]
  rfl

/-- Settles O52: two ticks configure the lines, and the acquisition from there ends as ACQUIRE of the configured
state. -/
theorem initRefinesOperation : Obligations.InitRefinesOperation := by
  intro s w a d n hv hacc hop hn hr haux hdata
  obtain ⟨m, rfl⟩ : ∃ m, n = m + 2 := ⟨n - 2, by rw [Timing.initTicks, Timing.acquireTicks] at hn; omega⟩
  have hm : m + 1 = Timing.acquireTicks s.afterConfig.params := by
    rw [Timing.initTicks] at hn
    rw [s.afterConfig_params]
    omega
  have ha : Acq.sampledAux s.afterConfig = a := (Acq.sampledAux_afterConfig s).trans haux.symm
  have hd : Acq.levels (Acq.sampledData s.afterConfig) = d := funext fun k =>
    (Acq.sampledData_afterConfig s k).trans (hdata k).symm
  have hend := Acq.run_finished (s := s.afterConfig) hv rfl hm hr.afterConfig
  rw [ha, hd, Acq.finished_afterConfig] at hend
  exact (run_afterConfig hv hacc hop hr).trans hend

end Sys2Proof.Machine
end

section
/-! One tick of the block (41_acquirer.md R132 to R147): the rule of each phase as an equation, the idle tick, and the
table of the sequencer's transitions. -/

namespace Sys2Proof.Machine

variable {s t : State}

/-! ### The idle tick (41_acquirer.md R132) -/

/-- What the instruction of a command word does, by its operation number. -/
theorem exec_decodeCommand_of_op (w : BitVec 3) (s : State) :
    (cmdOp w = Op.init → exec (decodeCommand w) s = .next (s.goto Ph.config)) ∧
    (cmdOp w = Op.acquire → exec (decodeCommand w) s = .next (s.goto Ph.latchHi)) ∧
    (cmdOp w = Op.changed → exec (decodeCommand w) s = .next (opChanged s)) ∧
    (cmdOp w = Op.decode → exec (decodeCommand w) s = .next (opDecode (cmdD w) s)) := by
  obtain ⟨hi, ha, hc, hd⟩ := decodeCommand_of_op w
  refine ⟨fun h => ?_, fun h => ?_, fun h => ?_, fun h => ?_⟩
  · rw [hi h]; rfl
  · rw [ha h]; rfl
  · rw [hc h, exec_changed_eq]
  · rw [hd h, exec_decode_eq]

theorem step_idle_quiet (hv : s.params.Valid) (hr : s.port.rst = false) (hp : s.ph = Ph.idle)
    (hc : s.port.cmdValid = false) : step s = .next s.endTick :=
  step_exec hv hr (by rw [State.fetchWord_quiet hc, hp]; rfl)

theorem opDecode_endTick (d : Bool) (s : State) :
    (opDecode d s).endTick = { opDecode d s with inputs := s.inputs.tail, draw := s.draw + 1 } := by
  cases d <;> rfl

/-- Settles O13: each command by its operation, then the tick's end. -/
theorem idleTickAcceptsCommand : Obligations.IdleTickAcceptsCommand := by
  refine fun s hv hr hp => ⟨fun w hw ho => ?_, fun w hw ho => ?_, fun w hw ho => ?_, fun w hw ho => ?_,
    step_idle_quiet hv hr hp⟩ <;> obtain ⟨hi, ha, hc, hd⟩ := exec_decodeCommand_of_op w s
  · exact step_command hv hr hp hw (hi ho)
  · exact step_command hv hr hp hw (ha ho)
  · exact step_command hv hr hp hw (hc ho)
  · exact (step_command hv hr hp hw (hd ho)).trans (congrArg Host.Outcome.next (opDecode_endTick (cmdD w) s))

/-- Settles O14: both are the move to the first phase of their sequence. -/
theorem initAndAcquireStartSequence : Obligations.InitAndAcquireStartSequence :=
  fun _ _ => ⟨rfl, rfl⟩

/-! ### The wait phases (41_acquirer.md R134) -/

/-- Settles O33: the wait rule on a counter that fits its register, in each of its three phases. -/
theorem waitTick : Obligations.WaitTick := by
  intro s hfit
  refine ⟨fun hgt => ?_, fun hle => ?_⟩
  · have hstay (succ : BitVec 4) : s.waitTick succ = { s with t := s.t - 1 } := by
      rw [State.waitTick_of_fits hfit, if_pos hgt]
    exact ⟨congrArg Host.Outcome.next (hstay Ph.latchLo), congrArg Host.Outcome.next (hstay Ph.clkLo),
      congrArg Host.Outcome.next (hstay Ph.clkHi)⟩
  · have hleave (succ : BitVec 4) : s.waitTick succ = { s with ph := succ } := by
      rw [State.waitTick_of_fits hfit, if_neg (Nat.not_lt.2 hle)]
    exact ⟨congrArg Host.Outcome.next (hleave Ph.latchLo), congrArg Host.Outcome.next (hleave Ph.clkLo),
      congrArg Host.Outcome.next (hleave Ph.clkHi)⟩

theorem WaitExit.ne_idle {p succ : BitVec 4} (hp : WaitExit p succ) : p ≠ Ph.idle := by
  rintro rfl
  exact absurd hp.isWait (by decide)

/-- Before its count is over a wait phase has only counted. -/
theorem run_wait_of_lt {succ : BitVec 4} {n : Nat} (hv : s.params.Valid) (hp : WaitExit s.ph succ) (hn : n < s.t)
    (hfit : s.t < 2 ^ s.params.wT) (hr : s.NoReset n) : run n s = .next (s.later n (s.t - n) s.ph) := by
  induction n with
  | zero => rfl
  | succ n ih =>
    have hwait : (s.later n (s.t - n) s.ph).waitTick succ = { s.later n (s.t - n) s.ph with t := s.t - n - 1 } := by
      have hgt : 1 < s.t - n := by omega
      exact (State.waitTick_of_fits (show s.t - n < 2 ^ s.params.wT by omega) succ).trans (if_pos hgt)
    have hstep := step_phase (s := s.later n (s.t - n) s.ph) hv (hr n (Nat.lt_succ_self n)) rfl hp.ne_idle
      (hp.exec_eq (s.later n (s.t - n) s.ph))
    rw [run_add (ih (by omega) (hr.mono (Nat.le_succ n))) 1, run_succ hstep, run_zero, hwait]
    simp only [State.later, State.endTick, List.tail_drop, Nat.add_assoc, Nat.sub_sub]

/-- Settles O34: the count goes down by one each tick, and its last tick leaves. -/
theorem waitPhaseLastsItsLoad : Obligations.WaitPhaseLastsItsLoad := by
  intro s succ hv hmem hpos hfit hr
  have hp : WaitExit s.ph succ := by
    simp only [List.mem_cons, Prod.mk.injEq, List.not_mem_nil, or_false] at hmem
    rcases hmem with ⟨hp, rfl⟩ | ⟨hp, rfl⟩ | ⟨hp, rfl⟩
    · exact .latch hp
    · exact .pre hp
    · exact .post hp
  refine ⟨fun n hn => run_wait_of_lt hv hp hn hfit (hr.mono hn.le), ?_⟩
  obtain ⟨n, ht⟩ : ∃ n, s.t = n + 1 := ⟨s.t - 1, by omega⟩
  rw [ht] at hfit hr ⊢
  exact run_wait hv rfl hp.ne_idle hp.exec_eq ht hfit hr

/-! ### The other phases -/

/-- Settles O31: `N_LATCH` fits the counter. -/
theorem latchHiRaisesLatch : Obligations.LatchHiRaisesLatch := by
  intro s hv
  change execLatchHi s = _
  rw [execLatchHi, State.writeT_of_lt (by exact nLatch_fits hv)]
  rfl

/-- Settles O32: each rule is the two writes named. -/
theorem latchLoAndClkLoLowerTheirLines : Obligations.LatchLoAndClkLoLowerTheirLines :=
  fun _ => ⟨rfl, rfl⟩

/-- The level of a line in each of the ways it can be driven (20_memory.md R67). -/
theorem lineLevel_of_drive {line : Line} {pullUp : Bool} {drive : LineDrive} {draw : Nat} {l : Level}
    (h : drive = .driven l ∨ (drive = .undriven ∧ pullUp = true ∧ l = .H) ∨
      (drive = .undriven ∧ pullUp = false ∧ l = Config.freeLevel line draw) ∨
      (drive = .unconstrained ∧ l = Config.freeLevel line draw)) : lineLevel line pullUp drive draw = l := by
  rcases h with rfl | ⟨rfl, rfl, rfl⟩ | ⟨rfl, rfl, rfl⟩ | ⟨rfl, rfl⟩ <;> rfl

/-- Settles O35: the level read is the one on the line, and `N_HALF` fits the counter. -/
theorem auxSampleKeepsRawLevel : Obligations.AuxSampleKeepsRawLevel := by
  intro s l hv hl
  have hread : s.pinReadAux = l := lineLevel_of_drive hl
  change execAuxSample s = _
  rw [execAuxSample, State.enterHalfWait_eq (by exact nHalf_fits hv), hread]
  rfl

/-- Shifting in the complement of a level (41_acquirer.md R140, R147). -/
theorem shiftIn_inverted_eq (acc : Byte) (l : Level) :
    shiftIn acc (inverted l) = (acc <<< 1) ||| (if l = .L then 1 else 0) := by
  apply BitVec.eq_of_getLsbD_eq
  intro i hi
  rw [shiftIn_getLsbD, BitVec.getLsbD_or, BitVec.getLsbD_shiftLeft]
  cases l <;> cases i <;> simp [inverted, hi]

/-- Settles O36: the level read is the one on the line, and `N_HALF` fits the counter. -/
theorem dataSampleShiftsInvertedLevel : Obligations.DataSampleShiftsInvertedLevel := by
  intro s l hv hl
  have hread : s.pinReadData = l := lineLevel_of_drive hl
  change execDataSample s = _
  rw [execDataSample, State.enterHalfWait_eq (by exact nHalf_fits hv), hread, shiftIn_inverted_eq]
  rfl

/-- `BIT + 1` does not overflow below 7. -/
theorem bit_succ_toNat {b : BitVec 3} (hb : b ≠ 7) : (b + 1).toNat = b.toNat + 1 := by
  revert b; decide

/-- Settles O37: the two branches of the rule. -/
theorem clkHiCountsBits : Obligations.ClkHiCountsBits := by
  refine fun s hv => ⟨fun hb => ⟨bit_succ_toNat hb, ?_⟩, fun hb => ?_⟩ <;> change execClkHi s = _
  · rw [execClkHi, if_pos hb, State.enterHalfWait_eq (by exact nHalf_fits hv)]
    rfl
  · rw [execClkHi, if_neg (not_not.2 hb)]
    rfl

/-- Settles O38: the two branches of the rule. -/
theorem storeCountsBytes : Obligations.StoreCountsBytes := by
  refine fun s hv => ⟨fun hb => ?_, fun hb => ?_⟩ <;> change execStore s = _
  · rw [execStore, if_pos hb, State.enterHalfWait_eq (by exact nHalf_fits hv)]
    rfl
  · rw [execStore, if_neg (by rw [hb]; decide)]
    rfl

/-- With `rst` low no tick but COMMIT's writes `LR`. -/
theorem step_lr_of_ne_commit (h : step s = .next t) (hr : s.port.rst = false) (hc : s.ph ≠ Ph.commit) :
    t.lr = s.lr := by
  rcases step_tick_cases h hr with ⟨hi, -⟩ | ⟨-, -, rfl⟩ | ⟨-, -, ⟨-, rfl⟩ | ⟨-, rfl⟩ | ⟨-, rfl⟩ | ⟨-, rfl⟩⟩
  · obtain ⟨u, hb, rfl⟩ := step_busy h hr hi
    obtain ⟨hkeep, -⟩ := hb.lr_ret_eq
    exact (hkeep hc).1
  all_goals simp

/-- Settles O39: byte 2 is the complement of `AUXS`, and the frame of every other tick has `LR` in it. -/
theorem commitIsOnlyWriterOfLastRead : Obligations.CommitIsOnlyWriterOfLastRead := by
  refine ⟨fun s => ?_, fun s t hr hc h => step_lr_of_ne_commit h hr hc⟩
  rw [← auxByte_eq]
  rfl

/-- Settles O40: IDLE writes nothing, and the three reserved phases share one rule. -/
theorem idleAndReservedPhases : Obligations.IdleAndReservedPhases :=
  fun s =>
    have hrecover : (.next s.recover : Host.Outcome State Fault Refusal) = _ := congrArg Host.Outcome.next s.recover_eq
    ⟨rfl, hrecover, hrecover, hrecover⟩

/-! ### The transitions (41_acquirer.md R146) -/

theorem State.waitTick_ph (s : State) (succ : BitVec 4) :
    (s.waitTick succ).ph = if 1 < s.t then s.ph else succ := by
  rcases s.waitTick_cases succ with ⟨h, hw⟩ | ⟨h, hw⟩
  · rw [hw, if_pos h]; rfl
  · rw [hw, if_neg (Nat.not_lt.2 h)]; rfl

theorem step_reserved (hv : s.params.Valid) (hr : s.port.rst = false) (hp : 13 ≤ s.ph.toNat) :
    step s = .next s.recover.endTick := by
  refine step_phase hv hr rfl (fun hi => by simp [hi] at hp) ?_
  rcases reserved_phase_cases s.ph hp with hp | hp | hp <;> rw [hp] <;> rfl

/-- The next phase is read off the state a step is shown to end in. -/
theorem ph_eq_of_step {u : State} (h : step s = .next t) (hu : step s = .next u.endTick) : t.ph = u.ph := by
  rw [h] at hu
  rw [Host.Outcome.next.inj hu, State.endTick_ph]

/-- Settles O41: each row by the state after that row's tick. -/
theorem controlFlowTable : Obligations.ControlFlowTable := by
  intro s t h
  have hv := step_valid h
  refine ⟨fun hr => by rw [step_rst h hr]; rfl, fun hr => ⟨fun hp hc ho => ?_, fun hp hc ho => ?_, fun hp hc => ?_,
    fun hp => ?_, fun hp => ?_, fun hp => ?_, fun hp => ?_, fun hp => ?_, fun hp => ?_, fun hp => ?_, fun hp => ?_,
    fun hp => ?_, fun hp => ?_, fun hp => ?_, fun hp => ?_⟩⟩
  · obtain ⟨hi, -⟩ := exec_decodeCommand_of_op s.port.cmd s
    rw [ph_eq_of_step h (step_command hv hr hp ⟨hc, rfl⟩ (hi ho)), State.goto_ph]
  · obtain ⟨-, ha, -⟩ := exec_decodeCommand_of_op s.port.cmd s
    rw [ph_eq_of_step h (step_command hv hr hp ⟨hc, rfl⟩ (ha ho)), State.goto_ph]
  · cases hcv : s.port.cmdValid with
    | false => rw [ph_eq_of_step h (step_idle_quiet hv hr hp hcv), hp]
    | true =>
      obtain ⟨-, -, hchanged, hdecode⟩ := exec_decodeCommand_of_op s.port.cmd s
      rcases hc with hc | ho | ho
      · simp [hcv] at hc
      · rw [ph_eq_of_step h (step_command hv hr hp ⟨hcv, rfl⟩ (hchanged ho)), ← hp]
        rfl
      · rw [ph_eq_of_step h (step_command hv hr hp ⟨hcv, rfl⟩ (hdecode ho)), opDecode_ph, hp]
  · rw [ph_eq_of_step h (step_config hr hp hv)]
  · rw [ph_eq_of_step h (step_latchHi hr hp hv)]
  · rw [ph_eq_of_step h (step_waitLatch hr hp hv), State.waitTick_ph, hp]
  · rw [ph_eq_of_step h (step_latchLo hr hp hv)]
  · rw [ph_eq_of_step h (step_auxSample hr hp hv)]
  · rw [ph_eq_of_step h (step_waitPre hr hp hv), State.waitTick_ph, hp]
  · rw [ph_eq_of_step h (step_clkLo hr hp hv)]
  · rw [ph_eq_of_step h (step_dataSample hr hp hv)]
  · rw [ph_eq_of_step h (step_waitPost hr hp hv), State.waitTick_ph, hp]
  · by_cases hb : s.bit ≠ 7
    · rw [ph_eq_of_step h (step_clkHi_next hr hp hv hb), if_pos hb]
    · rw [ph_eq_of_step h (step_clkHi_last hr hp hv (not_not.1 hb)), if_neg hb]
  · by_cases hb : s.byte = 0
    · rw [ph_eq_of_step h (step_store_first hr hp hv hb), if_pos hb]
    · rw [ph_eq_of_step h (step_store_second hr hp hv (by bv_omega)), if_neg hb]
  · rcases hp with hp | hp
    · rw [ph_eq_of_step h (step_reserved hv hr hp), State.recover_ph]
    · rw [ph_eq_of_step h (step_commit hr hp hv)]

end Sys2Proof.Machine
end

section
/-! The ACQUIRE sequence tick by tick (41_acquirer.md R131, R148 to R150): where the block stands in every tick from
acceptance to IDLE, and what `PH` and the two line registers hold there. -/

namespace Sys2Proof.Machine

open Sys2Proof.Config (Params)

variable {s u : State} {a : Level} {d : Nat → Level} {n : Nat}

/-! ### From acceptance to LATCH_HI -/

/-- An accepted ACQUIRE stands in LATCH_HI one tick later. -/
def State.afterAcquire (s : State) : State := (s.goto Ph.latchHi).endTick

theorem run_afterAcquire {w : BitVec 3} (hv : s.params.Valid) (ha : s.Accepts w) (hop : cmdOp w = Op.acquire) (n : Nat) :
    run (n + 1) s = run n s.afterAcquire := by
  obtain ⟨hrst, hp, hw⟩ := ha
  obtain ⟨-, hacquire, -⟩ := exec_decodeCommand_of_op w s
  exact run_succ (step_command hv hrst hp hw (hacquire hop)) n

theorem State.NoReset.afterAcquire (h : s.NoReset (n + 1)) : s.afterAcquire.NoReset n := h.endTick

theorem Acq.sampledAux_afterAcquire (s : State) :
    Acq.sampledAux s.afterAcquire = s.auxLevelAt s.cfg (Timing.auxTick s.params) :=
  s.endTick_auxLevelAt s.cfg (s.params.nLatch + 2)

theorem Acq.sampledData_afterAcquire (s : State) (k : Nat) :
    Acq.sampledData s.afterAcquire k = s.dataLevelAt s.cfg (Timing.dataTick s.params k) := by
  have htick : Acq.bitStart s.params.nHalf s.params.nLatch k + s.params.nHalf + 1 + 1 = Timing.dataTick s.params k := by
    rw [Timing.dataTick, ← Acq.bitStart_eq]
    omega
  rw [← htick]
  exact s.endTick_dataLevelAt s.cfg _

/-- The accepting tick only adds to the count. -/
theorem Acq.finished_afterAcquire (s : State) (a : Level) (d : Fin 16 → Level) (n : Nat) :
    Acq.finished s.afterAcquire a d n = Acq.finished s a d (n + 1) := by
  have hinputs : s.afterAcquire.inputs.drop n = s.inputs.drop (n + 1) := List.drop_tail
  have hdraw : s.afterAcquire.draw + n = s.draw + (n + 1) := Nat.succ_add_eq_add_succ s.draw n
  rw [Acq.finished, hinputs, hdraw]
  rfl

/-- Settles O51: one tick after acceptance the acquisition begins, and it ends as ACQUIRE of the levels it sampled. -/
theorem acquireRefinesOperation : Obligations.AcquireRefinesOperation := by
  intro s w a d n hv hacc hop hn hr haux hdata
  obtain ⟨m, rfl⟩ : ∃ m, n = m + 1 := ⟨n - 1, by rw [Timing.acquireTicks] at hn; omega⟩
  have ha : Acq.sampledAux s.afterAcquire = a := (Acq.sampledAux_afterAcquire s).trans haux.symm
  have hd : Acq.levels (Acq.sampledData s.afterAcquire) = d := funext fun k =>
    (Acq.sampledData_afterAcquire s k).trans (hdata k).symm
  have hend := Acq.run_finished (s := s.afterAcquire) hv rfl hn hr.afterAcquire
  rw [ha, hd, Acq.finished_afterAcquire] at hend
  exact (run_afterAcquire hv hacc hop m).trans hend

/-! ### Every tick of the sequence -/

/-- The state `n` ticks after `s` accepted an ACQUIRE: still `s`, in a tick of the acquisition, or at its end. -/
inductive Acq.Tick (s u : State) (n : Nat) : Prop
  | accept (hn : n = 0) (hu : u = s)
  | acquire (m : Nat) (hn : n = m + 1) (hm : n < Timing.acquireTicks s.params)
      (hS : Standing s.afterAcquire u (sampledAux s.afterAcquire) (sampledData s.afterAcquire) m)
  | done (hn : n = Timing.acquireTicks s.params)
      (hu : u = finished s.afterAcquire (sampledAux s.afterAcquire) (levels (sampledData s.afterAcquire)) (n - 1))

theorem Acq.run_tick {w : BitVec 3} (hv : s.params.Valid) (ha : s.Accepts w) (hop : cmdOp w = Op.acquire)
    (hn : n ≤ Timing.acquireTicks s.params) (hr : s.NoReset n) : ∃ u, run n s = .next u ∧ Tick s u n := by
  cases n with
  | zero => exact ⟨s, rfl, .accept rfl rfl⟩
  | succ m =>
    rw [run_afterAcquire hv ha hop]
    rcases hn.lt_or_eq with hlt | heq
    · have hm : m ≤ bitStart s.params.nHalf s.params.nLatch 15 + (2 * s.params.nHalf + 3) + 1 := by
        rw [bitStart_fifteen]
        rw [Timing.acquireTicks] at hlt
        omega
      obtain ⟨u, hu, -, hS⟩ :=
        run_standing (s := s.afterAcquire) hv rfl m hr.afterAcquire rfl (fun _ _ => rfl) hm
      exact ⟨u, hu, .acquire m rfl hlt hS⟩
    · exact ⟨_, run_finished (s := s.afterAcquire) hv rfl heq hr.afterAcquire, .done heq rfl⟩

/-! ### The phase (41_acquirer.md R149) -/

/-- The phase in a tick of a bit. -/
theorem Acq.InBit.ph_eq {k r : Nat} (h : InBit s u d k r) : u.ph = Timing.bitPhase s.params r := by
  rw [Timing.bitPhase]
  cases h with
  | waitPre hr hp => rw [if_pos hr, hp]
  | clkLo hr hp => rw [if_neg (by omega), if_pos hr, hp]
  | dataSample hr hp => rw [if_neg (by omega), if_neg (by omega), if_pos hr, hp]
  | waitPost hr hr' hp => rw [if_neg (by omega), if_neg (by omega), if_neg (by omega), if_pos hr', hp]
  | clkHi hr hp => rw [if_neg (by omega), if_neg (by omega), if_neg (by omega), if_neg (by omega), hp]

/-- Tick `r` of bit `k` in the table: the first eight bits stand before the first STORE, the others after it. -/
theorem Timing.phaseAt_bit (p : Params) {k r : Nat} (hk : k < 16) (hr : r < Timing.bitTicks p)
    (hn : n = Timing.bitTick p k + r) : Timing.phaseAt p n = Timing.bitPhase p r := by
  have hmod : (k * Timing.bitTicks p + r) % Timing.bitTicks p = r := by
    rw [Nat.mul_comm, Nat.mul_add_mod, Nat.mod_eq_of_lt hr]
  have hmul {j : Nat} (h : k < j) : k * Timing.bitTicks p + Timing.bitTicks p ≤ j * Timing.bitTicks p :=
    Nat.succ_mul k _ ▸ Nat.mul_le_mul_right _ h
  have hfirst : Timing.firstBitTick p = p.nLatch + 4 := rfl
  rw [Timing.bitTick] at hn
  by_cases h7 : k ≤ 7
  · rw [if_pos h7] at hn
    have hlt := hmul (Nat.lt_succ_of_le h7)
    have hoff : n - Timing.firstBitTick p = k * Timing.bitTicks p + r := by omega
    simp (disch := omega) only [Timing.phaseAt, if_neg, if_pos]
    rw [hoff, hmod]
  · rw [if_neg h7] at hn
    have hle : 8 * Timing.bitTicks p ≤ k * Timing.bitTicks p := Nat.mul_le_mul_right _ (by omega)
    have hlt := hmul hk
    have hoff : n - Timing.firstBitTick p - 1 = k * Timing.bitTicks p + r := by omega
    simp (disch := omega) only [Timing.phaseAt, if_neg, if_pos]
    rw [hoff, hmod]

/-- The phase in every tick of an acquisition, counted from acceptance. -/
theorem Acq.Standing.ph_eq (h : Standing s u a d n) : u.ph = Timing.phaseAt s.params (n + 1) := by
  have hfirst : Timing.firstBitTick s.params = s.params.nLatch + 4 := rfl
  have hbit : Timing.bitTicks s.params = 2 * s.params.nHalf + 3 := rfl
  have h7 : bitStart s.params.nHalf s.params.nLatch 7 = s.params.nLatch + 3 + 7 * (2 * s.params.nHalf + 3) := by
    simp [bitStart]
    omega
  have h15 := bitStart_fifteen s.params.nHalf s.params.nLatch
  cases h with
  | bit k r hk hr hn _ hi =>
    have htick : n + 1 = Timing.bitTick s.params k + r := by rw [← bitStart_eq, hn, Nat.add_right_comm]
    rw [hi.ph_eq, Timing.phaseAt_bit s.params hk hr htick]
  | latchHi hn hp | latchLo hn hp | auxSample hn hp | storeFirst hn hp | storeSecond hn hp | commit hn hp =>
    simp (disch := omega) only [Timing.phaseAt, if_neg, if_pos, hp]
  | waitLatch hn hn' hp => simp (disch := omega) only [Timing.phaseAt, if_neg, if_pos, hp]

/-- The table ends in IDLE. -/
theorem Timing.phaseAt_acquireTicks (p : Params) : Timing.phaseAt p (Timing.acquireTicks p) = Ph.idle := by
  have hend : Timing.acquireTicks p = p.nLatch + 32 * p.nHalf + 55 := rfl
  have hfirst : Timing.firstBitTick p = p.nLatch + 4 := rfl
  have hbit : Timing.bitTicks p = 2 * p.nHalf + 3 := rfl
  simp (disch := omega) only [Timing.phaseAt, if_neg]

/-- Settles O55: the phase of `Acq.Standing` in every tick between acceptance and the end, IDLE at both. -/
theorem acquireTickSchedule : Obligations.AcquireTickSchedule := by
  intro s w n hv ha hop hn hr
  obtain ⟨u, hu, ht⟩ := Acq.run_tick hv ha hop hn hr
  refine ⟨u, hu, ?_⟩
  cases ht with
  | accept h0 hs =>
    obtain ⟨-, hp, -⟩ := ha
    rw [hs, hp, h0]
    rfl
  | acquire m hm _ hS => rw [hS.ph_eq, hm]; rfl
  | done hend hfin => rw [hfin, hend, Timing.phaseAt_acquireTicks]; rfl

/-! ### The two line registers (41_acquirer.md R131) -/

/-- The tick of an acquisition is a tick of one of the sixteen bits, or lies outside all of them; there the clock register
is high if it was at the start. -/
theorem Acq.Standing.bit_or_outside (h : Standing s u a d n) :
    (∃ k r, k < 16 ∧ r < 2 * s.params.nHalf + 3 ∧ n = bitStart s.params.nHalf s.params.nLatch k + r ∧
      InBit s u d k r) ∨
    ((∀ k, k < 16 → n < bitStart s.params.nHalf s.params.nLatch k ∨
        bitStart s.params.nHalf s.params.nLatch k + (2 * s.params.nHalf + 3) ≤ n) ∧
      (s.clock = .H → u.clock = .H)) := by
  have hfirst (k : Nat) : s.params.nLatch + 3 ≤ bitStart s.params.nHalf s.params.nLatch k :=
    bitStart_mono s.params.nHalf s.params.nLatch (Nat.zero_le k)
  have hlast {k : Nat} (hk : k < 16) : bitStart s.params.nHalf s.params.nLatch k ≤
      bitStart s.params.nHalf s.params.nLatch 15 := bitStart_mono s.params.nHalf s.params.nLatch (by omega)
  cases h with
  | bit k r hk hr hn hf hi => exact .inl ⟨k, r, hk, hr, hn, hi⟩
  | latchHi hn _ _ hc => exact .inr ⟨fun k _ => .inl (by have := hfirst k; omega), hc⟩
  | waitLatch _ hn _ _ _ hc => exact .inr ⟨fun k _ => .inl (by have := hfirst k; omega), hc⟩
  | latchLo hn _ _ hc => exact .inr ⟨fun k _ => .inl (by have := hfirst k; omega), hc⟩
  | auxSample hn _ _ hc => exact .inr ⟨fun k _ => .inl (by have := hfirst k; omega), hc⟩
  | storeFirst hn _ _ _ hc =>
    refine .inr ⟨fun k _ => ?_, fun _ => hc⟩
    rcases Nat.lt_or_ge 7 k with h7 | h7
    · have h8 := bitStart_mono s.params.nHalf s.params.nLatch (show 7 + 1 ≤ k from h7)
      rw [bitStart, if_pos rfl] at h8
      omega
    · have := bitStart_mono s.params.nHalf s.params.nLatch h7
      omega
  | storeSecond hn _ _ _ hc => exact .inr ⟨fun k hk => .inr (by have := hlast hk; omega), fun _ => hc⟩
  | commit hn _ _ _ hc => exact .inr ⟨fun k hk => .inr (by have := hlast hk; omega), fun _ => hc⟩

/-- Within a bit the clock register is low from DATA_SAMPLE to CLK_HI. -/
theorem Acq.InBit.clock_eq_L_iff {k r : Nat} (h : InBit s u d k r) (hs : s.clock = .H) :
    u.clock = .L ↔ s.params.nHalf + 1 ≤ r ∧ r ≤ 2 * s.params.nHalf + 2 := by
  cases h with
  | waitPre hr _ _ hc => exact iff_of_false (by simp [hc (.inl hs)]) (by omega)
  | clkLo hr _ hc => exact iff_of_false (by simp [hc (.inl hs)]) (by omega)
  | dataSample hr _ hc => exact iff_of_true hc (by omega)
  | waitPost hr hr' _ _ hc => exact iff_of_true hc (by omega)
  | clkHi hr _ _ hc => exact iff_of_true hc (by omega)

/-- The clock register is low in `N_HALF + 2` ticks of each bit and in no other. -/
theorem Acq.Standing.clock_eq_L_iff (h : Standing s u a d n) (hs : s.clock = .H) :
    u.clock = .L ↔ ∃ k, k < 16 ∧ bitStart s.params.nHalf s.params.nLatch k + s.params.nHalf + 1 ≤ n ∧
      n ≤ bitStart s.params.nHalf s.params.nLatch k + 2 * s.params.nHalf + 2 := by
  rcases h.bit_or_outside with ⟨k, r, hk, hr, hn, hi⟩ | ⟨hout, hc⟩
  · rw [hi.clock_eq_L_iff hs]
    refine ⟨fun hlow => ⟨k, hk, by omega, by omega⟩, fun ⟨j, hj, hlo, hhi⟩ => ?_⟩
    obtain rfl : j = k := by
      rcases Nat.lt_trichotomy j k with hjk | hjk | hjk
      · have := bitStart_lt s.params.nHalf s.params.nLatch hjk; omega
      · exact hjk
      · have := bitStart_lt s.params.nHalf s.params.nLatch hjk; omega
    omega
  · exact iff_of_false (by simp [hc hs]) fun ⟨k, hk, hlo, hhi⟩ => by rcases hout k hk with h | h <;> omega

/-- The latch register is high from the tick after LATCH_HI to LATCH_LO. -/
theorem Acq.Standing.latch_eq_H_iff (h : Standing s u a d n) (hs : s.latch = .L) :
    u.latch = .H ↔ 1 ≤ n ∧ n ≤ s.params.nLatch + 1 := by
  have hfirst (k : Nat) : s.params.nLatch + 3 ≤ bitStart s.params.nHalf s.params.nLatch k :=
    bitStart_mono s.params.nHalf s.params.nLatch (Nat.zero_le k)
  cases h with
  | latchHi hn _ hl => exact iff_of_false (by simp [hl hs]) (by omega)
  | waitLatch hn hn' _ _ hl => exact iff_of_true hl (by omega)
  | latchLo hn _ hl => exact iff_of_true hl (by omega)
  | auxSample hn _ hl => exact iff_of_false (by simp [hl]) (by omega)
  | bit k r _ _ hn hf => exact iff_of_false (by simp [hf.latch]) (by have := hfirst k; omega)
  | storeFirst hn _ _ hl => exact iff_of_false (by simp [hl]) (by have := hfirst 7; omega)
  | storeSecond hn _ hf => exact iff_of_false (by simp [hf.latch]) (by have := hfirst 15; omega)
  | commit hn _ hf => exact iff_of_false (by simp [hf.latch]) (by have := hfirst 15; omega)

theorem Acq.InBit.busy {k r : Nat} (h : InBit s u d k r) : u.busy = true := by
  cases h with
  | waitPre _ hp | clkLo _ hp | dataSample _ hp | clkHi _ hp => simp [State.busy, hp]
  | waitPost _ _ hp => simp [State.busy, hp]

/-- No tick of an acquisition is idle. -/
theorem Acq.Standing.busy (h : Standing s u a d n) : u.busy = true := by
  cases h with
  | bit _ _ _ _ _ _ hi => exact hi.busy
  | latchHi _ hp | latchLo _ hp | auxSample _ hp | storeFirst _ hp | storeSecond _ hp | commit _ hp =>
    simp [State.busy, hp]
  | waitLatch _ _ hp => simp [State.busy, hp]

section
variable (s : State) (a : Level) (d : Fin 16 → Level) (n : Nat)
@[simp] theorem Acq.finished_ph : (finished s a d n).ph = Ph.idle := rfl
@[simp] theorem Acq.finished_latch : (finished s a d n).latch = .L := rfl
@[simp] theorem Acq.finished_clock : (finished s a d n).clock = .H := rfl
end

namespace Acq.Tick

theorem busy_iff (h : Tick s u n) (hi : s.ph = Ph.idle) :
    u.busy = true ↔ 1 ≤ n ∧ n ≤ s.params.nLatch + 32 * s.params.nHalf + 54 := by
  have hticks : Timing.acquireTicks s.params = s.params.nLatch + 32 * s.params.nHalf + 55 := rfl
  cases h with
  | accept hn hu => exact iff_of_false (by simp [State.busy, hu, hi]) (by omega)
  | acquire m hn hm hS => exact iff_of_true hS.busy (by omega)
  | done hn hu => exact iff_of_false (by simp [State.busy, hu]) (by omega)

theorem latch_iff (h : Tick s u n) (hl : s.latch = .L) : u.latch = .H ↔ 2 ≤ n ∧ n ≤ s.params.nLatch + 2 := by
  have hticks : Timing.acquireTicks s.params = s.params.nLatch + 32 * s.params.nHalf + 55 := rfl
  cases h with
  | accept hn hu => exact iff_of_false (by simp [hu, hl]) (by omega)
  | acquire m hn _ hS =>
    have hacq : u.latch = .H ↔ 1 ≤ m ∧ m ≤ s.params.nLatch + 1 := hS.latch_eq_H_iff hl
    exact hacq.trans (by omega)
  | done hn hu => exact iff_of_false (by simp [hu]) (by omega)

theorem clock_iff (h : Tick s u n) (hc : s.clock = .H) :
    u.clock = .L ↔ ∃ k, k < 16 ∧ Timing.bitTick s.params k + s.params.nHalf + 1 ≤ n ∧
      n ≤ Timing.bitTick s.params k + 2 * s.params.nHalf + 2 := by
  simp only [← bitStart_eq]
  cases h with
  | accept hn hu => exact iff_of_false (by simp [hu, hc]) fun ⟨k, _, hlo, _⟩ => by omega
  | acquire m hn _ hS =>
    refine (hS.clock_eq_L_iff hc).trans (exists_congr fun k => and_congr_right fun _ => ?_)
    show bitStart s.params.nHalf s.params.nLatch k + s.params.nHalf + 1 ≤ m ∧
      m ≤ bitStart s.params.nHalf s.params.nLatch k + 2 * s.params.nHalf + 2 ↔ _
    omega
  | done hn hu =>
    refine iff_of_false (by simp [hu]) fun ⟨k, hk, _, hhi⟩ => ?_
    have hmono := bitStart_mono s.params.nHalf s.params.nLatch (show k ≤ 15 by omega)
    have h15 := bitStart_fifteen s.params.nHalf s.params.nLatch
    rw [Timing.acquireTicks] at hn
    omega

end Acq.Tick

/-- Settles O56: the waveform is that of `Acq.Tick`, and each pulse is longer than its wait, which R6 makes long
enough. -/
theorem acquireWaveform : Obligations.AcquireWaveform := by
  intro s w hv ha hop hl hc
  have ⟨_, hi, _⟩ := ha
  have ⟨_, _, _, _, hlatch, hhalf, _, _⟩ := hv
  refine ⟨fun n hn hr => ?_, hlatch.trans ?_, hhalf.trans ?_, hhalf.trans ?_⟩
  · obtain ⟨u, hu, ht⟩ := Acq.run_tick hv ha hop hn hr
    exact ⟨u, hu, ht.busy_iff hi, ht.latch_iff hl, ht.clock_iff hc⟩
  · exact Nat.mul_le_mul_right _ (by omega)
  · exact Nat.mul_le_mul_right _ (by omega)
  · exact Nat.mul_le_mul_right _ (by omega)

end Sys2Proof.Machine
end

section
/-! How long a busy block stays busy (41_acquirer.md R146, 70_reset_and_hazards.md R243): the number of ticks to IDLE is a
function of the registers, and every busy tick without reset takes one off it. -/

namespace Sys2Proof.Machine

open Sys2Proof.Config (Params)

variable {s u : State}

/-! ### The count -/

/-- The ticks from STORE to IDLE: with `BYTE` 0 the bits of byte 1 and another STORE come before COMMIT. -/
def Timing.ticksFromStore (p : Params) (byte : BitVec 1) : Nat :=
  if byte = 0 then 8 * Timing.bitTicks p + 3 else 2

/-- The ticks from CLK_HI to IDLE: its own, those of the bits left in the byte, and those from STORE. -/
def Timing.ticksFromClkHi (p : Params) (byte : BitVec 1) (bit : BitVec 3) : Nat :=
  1 + (7 - bit.toNat) * Timing.bitTicks p + Timing.ticksFromStore p byte

/-- The ticks from the rule of a phase to IDLE, where no reset comes; 0 where there is no sequence to end. -/
def State.ticksFrom (s : State) : Instr → Nat
  | .config => s.params.nLatch + 16 * Timing.bitTicks s.params + 7
  | .latchHi => s.params.nLatch + 16 * Timing.bitTicks s.params + 6
  | .waitLatch => s.t + (16 * Timing.bitTicks s.params + 5)
  | .latchLo => 16 * Timing.bitTicks s.params + 5
  | .auxSample => 16 * Timing.bitTicks s.params + 4
  | .waitPre => s.t + (s.params.nHalf + 2 + Timing.ticksFromClkHi s.params s.byte s.bit)
  | .clkLo => s.params.nHalf + 2 + Timing.ticksFromClkHi s.params s.byte s.bit
  | .dataSample => s.params.nHalf + 1 + Timing.ticksFromClkHi s.params s.byte s.bit
  | .waitPost => s.t + Timing.ticksFromClkHi s.params s.byte s.bit
  | .clkHi => Timing.ticksFromClkHi s.params s.byte s.bit
  | .store => Timing.ticksFromStore s.params s.byte
  | .commit => 1
  | .init _ | .acquire _ | .changed _ | .decode _ | .idle | .reserved13 | .reserved14 | .reserved15 => 0

/-- The ticks from here to IDLE. -/
def State.ticksLeft (s : State) : Nat := s.ticksFrom (decodePhase s.ph)

theorem State.ticksLeft_of_ph {p : BitVec 4} (hp : s.ph = p) : s.ticksLeft = s.ticksFrom (decodePhase p) := by
  rw [State.ticksLeft, hp]

/-- After the last bit of a byte comes STORE. -/
theorem Timing.ticksFromClkHi_last (p : Params) (byte : BitVec 1) :
    Timing.ticksFromClkHi p byte 7 = Timing.ticksFromStore p byte + 1 := by
  simp [Timing.ticksFromClkHi, Nat.add_comm]

/-- After every other bit come the ticks of the next one. -/
theorem Timing.ticksFromClkHi_next (p : Params) (byte : BitVec 1) {bit : BitVec 3} (hb : bit ≠ 7) :
    Timing.ticksFromClkHi p byte bit = Timing.bitTicks p + Timing.ticksFromClkHi p byte (bit + 1) := by
  have hsucc := bit_succ_toNat hb
  have hleft : 7 - bit.toNat = 7 - (bit + 1).toNat + 1 := by
    have := (bit + 1).isLt
    omega
  rw [Timing.ticksFromClkHi, Timing.ticksFromClkHi, hleft, Nat.succ_mul]
  omega

/-- From the tick after the one that enters a byte its eight bits are left. -/
theorem Timing.ticksFromClkHi_first (p : Params) (byte : BitVec 1) :
    2 * p.nHalf + 2 + Timing.ticksFromClkHi p byte 0 = 8 * Timing.bitTicks p + Timing.ticksFromStore p byte := by
  rw [Timing.ticksFromClkHi, Timing.bitTicks, show (0 : BitVec 3).toNat = 0 from rfl]
  omega

theorem Timing.ticksFromStore_le (p : Params) (byte : BitVec 1) :
    Timing.ticksFromStore p byte ≤ 8 * Timing.bitTicks p + 3 := by
  rw [Timing.ticksFromStore]
  split <;> omega

theorem Timing.ticksFromClkHi_le (p : Params) (byte : BitVec 1) (bit : BitVec 3) :
    Timing.ticksFromClkHi p byte bit ≤ 15 * Timing.bitTicks p + 4 := by
  have hmul : (7 - bit.toNat) * Timing.bitTicks p ≤ 7 * Timing.bitTicks p :=
    Nat.mul_le_mul_right _ (Nat.sub_le 7 _)
  have hstore := Timing.ticksFromStore_le p byte
  rw [Timing.ticksFromClkHi]
  omega

/-! ### One tick less -/

/-- A wait phase lasts `T` ticks, and the next phase comes after it. -/
theorem WaitExit.ticksFrom_eq {p succ : BitVec 4} (hp : WaitExit p succ) (s : State) :
    s.ticksFrom (decodePhase p) = s.t + s.ticksFrom (decodePhase succ) := by
  cases hp <;> subst p <;> rfl

/-- What comes after a wait phase does not depend on `T`. -/
theorem WaitExit.ticksFrom_congr {p succ : BitVec 4} (hp : WaitExit p succ) (s : State) (n : Nat) :
    State.ticksFrom { s with t := n } (decodePhase succ) = s.ticksFrom (decodePhase succ) := by
  cases hp <;> rfl

/-- A wait tick counts down, or leaves in its last tick. -/
theorem WaitExit.ticksLeft_waitTick {succ : BitVec 4} (hp : WaitExit s.ph succ) (h : StateInv s) :
    s.ticksLeft = (s.waitTick succ).ticksLeft + 1 := by
  obtain ⟨hpos, -⟩ := h.timerInWait hp.isWait
  rw [State.waitTick_of_fits h.timerWidth, State.ticksLeft, hp.ticksFrom_eq]
  split
  · have hstay : State.ticksLeft { s with t := s.t - 1 } = s.t - 1 + s.ticksFrom (decodePhase succ) :=
      (hp.ticksFrom_eq { s with t := s.t - 1 }).trans (congrArg _ (hp.ticksFrom_congr s (s.t - 1)))
    omega
  · have hleave : State.ticksLeft { s with ph := succ } = s.ticksFrom (decodePhase succ) := by
      cases hp <;> rfl
    omega

/-- The ticks left where WAIT_PRE is entered: its load, and those from CLK_LO. -/
theorem State.ticksLeft_enterWaitPre (hv : s.params.Valid) : (s.enterHalfWait Ph.waitPre).ticksLeft =
    2 * s.params.nHalf + 2 + Timing.ticksFromClkHi s.params s.byte s.bit := by
  rw [State.enterHalfWait_eq (nHalf_fits hv), State.ticksLeft_of_ph (p := Ph.waitPre) rfl]
  show s.params.nHalf + (s.params.nHalf + 2 + Timing.ticksFromClkHi s.params s.byte s.bit) = _
  omega

/-- The ticks left where the first bit of a byte begins: its eight bits, and those from STORE. -/
theorem State.ticksLeft_enterByte (hv : s.params.Valid) (hb : s.bit = 0) : (s.enterHalfWait Ph.waitPre).ticksLeft =
    8 * Timing.bitTicks s.params + Timing.ticksFromStore s.params s.byte := by
  rw [State.ticksLeft_enterWaitPre hv, hb, Timing.ticksFromClkHi_first]

/-- A busy tick without reset takes one off the count. -/
theorem BusyTick.ticksLeft_eq (hb : BusyTick s u) (h : StateInv s) : s.ticksLeft = u.ticksLeft + 1 := by
  have hv := h.params
  cases hb with
  | wait hp => exact hp.ticksLeft_waitTick h
  | reserved hp => exact absurd h.phase (by omega)
  | config hp | latchLo hp | commit hp => rw [s.ticksLeft_of_ph hp]; rfl
  | latchHi hp =>
    rw [s.ticksLeft_of_ph hp, State.writeT_of_lt (by exact nLatch_fits hv)]
    exact Nat.add_assoc s.params.nLatch _ 6
  | auxSample hp =>
    rw [s.ticksLeft_of_ph hp, State.ticksLeft_enterByte (by exact hv) rfl]
    show 16 * Timing.bitTicks s.params + 4 = 8 * Timing.bitTicks s.params + (8 * Timing.bitTicks s.params + 3) + 1
    omega
  | clkLo hp =>
    rw [s.ticksLeft_of_ph hp]
    exact Nat.add_right_comm (s.params.nHalf + 1) 1 _
  | dataSample hp =>
    rw [s.ticksLeft_of_ph hp, State.enterHalfWait_eq (by exact nHalf_fits hv)]
    exact Nat.add_right_comm s.params.nHalf 1 _
  | nextBit hp hb =>
    rw [s.ticksLeft_of_ph hp, State.ticksLeft_enterWaitPre (by exact hv)]
    show Timing.ticksFromClkHi s.params s.byte s.bit =
      2 * s.params.nHalf + 2 + Timing.ticksFromClkHi s.params s.byte (s.bit + 1) + 1
    rw [Timing.ticksFromClkHi_next s.params s.byte hb, Timing.bitTicks]
    omega
  | lastBit hp hb =>
    rw [s.ticksLeft_of_ph hp]
    show Timing.ticksFromClkHi s.params s.byte s.bit = Timing.ticksFromStore s.params s.byte + 1
    rw [hb, Timing.ticksFromClkHi_last]
  | nextByte hp hb =>
    rw [s.ticksLeft_of_ph hp, State.ticksLeft_enterByte (by exact hv) rfl]
    exact if_pos hb
  | lastByte hp hb =>
    rw [s.ticksLeft_of_ph hp]
    exact if_neg (by rw [hb]; decide)

/-- With no tick left the block is in IDLE. -/
theorem StateInv.idle_of_ticksLeft (h : StateInv s) (h0 : s.ticksLeft = 0) : s.ph = Ph.idle := by
  by_contra hi
  obtain ⟨u, -, hb⟩ := exec_busy hi
  have hone := hb.ticksLeft_eq h
  omega

/-- After the ticks left the block is in IDLE. -/
theorem run_ticksLeft {n : Nat} (h : StateInv s) (hr : s.NoReset n) (hn : s.ticksLeft = n) :
    ∃ t, run n s = .next t ∧ t.ph = Ph.idle := by
  induction n generalizing s with
  | zero => exact ⟨s, rfl, h.idle_of_ticksLeft hn⟩
  | succ n ih =>
    have hi : s.ph ≠ Ph.idle := fun hi => Nat.succ_ne_zero n (hn.symm.trans (s.ticksLeft_of_ph hi))
    obtain ⟨u, hu, hb⟩ := exec_busy hi
    have hleft : u.endTick.ticksLeft = n := Nat.succ.inj ((hb.ticksLeft_eq h).symm.trans hn)
    have hr' : u.endTick.NoReset n := fun k hk => by
      obtain ⟨-, hinputs, -⟩ := exec_keeps hu
      rw [State.endTick_portAt, State.portAt_congr hinputs]
      exact hr (k + 1) (Nat.succ_lt_succ hk)
    rw [run_succ (step_phase h.params hr.now rfl hi hu)]
    exact ih (hb.keeps_inv h).endTick hr' hleft

/-! ### The bound -/

/-- Each phase has a number of its own. -/
theorem decodePhase_inj {p q : BitVec 4} (h : decodePhase p = decodePhase q) : p = q := by
  have hword : FetchWord.phase p = .phase q := by
    rw [← encode_decodeWord (.phase p), ← encode_decodeWord (.phase q)]
    exact congrArg encode h
  exact FetchWord.phase.inj hword

/-- An INIT in CONFIG has the longest way to go. -/
theorem StateInv.ticksLeft_le (h : StateInv s) : s.ticksLeft ≤ Timing.acquireTicks s.params := by
  have hclk := Timing.ticksFromClkHi_le s.params s.byte s.bit
  have hstore := Timing.ticksFromStore_le s.params s.byte
  have hP : Timing.bitTicks s.params = 2 * s.params.nHalf + 3 := rfl
  have hend : Timing.acquireTicks s.params = s.params.nLatch + 32 * s.params.nHalf + 55 := rfl
  have hload {p : BitVec 4} (hp : decodePhase s.ph = decodePhase p) (hw : isWait p = true) :
      s.t ≤ waitTicks s.params p := by
    obtain rfl := decodePhase_inj hp
    exact (h.timerInWait hw).2
  rw [State.ticksLeft]
  cases hi : decodePhase s.ph with
  | waitLatch =>
    have ht : s.t ≤ s.params.nLatch := hload (p := Ph.waitLatch) hi rfl
    simp only [State.ticksFrom]
    omega
  | waitPre =>
    have ht : s.t ≤ s.params.nHalf := hload (p := Ph.waitPre) hi rfl
    simp only [State.ticksFrom]
    omega
  | waitPost =>
    have ht : s.t ≤ s.params.nHalf := hload (p := Ph.waitPost) hi rfl
    simp only [State.ticksFrom]
    omega
  | _ =>
    simp only [State.ticksFrom]
    omega

/-- Settles O57: the ticks left are at least one in a busy state, and at most those of an INIT in CONFIG. -/
theorem busySequenceEnds : Obligations.BusySequenceEnds := by
  intro s h hb hr
  have hpos : s.ticksLeft ≠ 0 := fun h0 => bne_iff_ne.1 hb (h.idle_of_ticksLeft h0)
  obtain ⟨t, ht, hi⟩ := run_ticksLeft h (hr.mono h.ticksLeft_le) rfl
  exact ⟨s.ticksLeft, t, Nat.pos_of_ne_zero hpos, h.ticksLeft_le, ht, hi⟩

end Sys2Proof.Machine
end

section
/-! The change detector (42_change_detector.md R170, R172, R173): CHANGED is the comparison of the two samples, and it
and the idle tick move neither of them. -/

namespace Sys2Proof.Machine

variable {s : State}

/-! ### CHANGED as a command (R170) -/

theorem step_changed {w : BitVec 3} (hv : s.params.Valid) (hw : s.Accepts w) (ho : cmdOp w = Op.changed) :
    step s = .next (opChanged s).endTick := by
  obtain ⟨hr, hp, hpresents⟩ := hw
  obtain ⟨-, -, hexec, -⟩ := exec_decodeCommand_of_op w s
  exact step_command hv hr hp hpresents (hexec ho)

/-- Settles O15: the instruction is the operation, and both words have the operation number of CHANGED. -/
theorem changedReturnsComparison : Obligations.ChangedReturnsComparison := by
  refine ⟨exec_changed_eq, fun s w hv hw hword => ?_⟩
  have ho : cmdOp w = Op.changed := by rcases hword with rfl | rfl <;> rfl
  exact step_changed hv hw ho

/-! ### Ticks with nothing but CHANGED (R172) -/

theorem opChanged_ret (s : State) : (opChanged s).ret = if s.changed then 0x01 else 0x00 := by
  by_cases h : s.lr = s.lp <;> simp [opChanged, s.changed_eq_decide, h]

/-- `n` ticks on, with `RET` and nothing else written. -/
def State.afterAsking (s : State) (n : Nat) (r : Byte) : State :=
  { s with ret := r, inputs := s.inputs.drop n, draw := s.draw + n }

theorem State.afterAsking_add (s : State) (m n : Nat) (q r : Byte) :
    (s.afterAsking m q).afterAsking n r = s.afterAsking (m + n) r := by
  simp only [afterAsking, List.drop_drop, Nat.add_assoc]

theorem State.afterAsking_portAt (s : State) (m n : Nat) (r : Byte) :
    (s.afterAsking m r).portAt n = s.portAt (m + n) := by
  simp only [portAt, afterAsking, List.drop_drop]

theorem State.endTick_eq_afterAsking (s : State) : s.endTick = s.afterAsking 1 s.ret := by
  simp only [endTick, afterAsking, List.drop_one]

theorem opChanged_endTick (s : State) : (opChanged s).endTick = s.afterAsking 1 (opChanged s).ret :=
  (opChanged s).endTick_eq_afterAsking

theorem step_afterAsking (hv : s.params.Valid) (hp : s.ph = Ph.idle) (hr : s.port.rst = false)
    (hc : s.port.cmdValid = false ∨ cmdOp s.port.cmd = Op.changed) : ∃ r, step s = .next (s.afterAsking 1 r) := by
  cases hcv : s.port.cmdValid with
  | false => exact ⟨s.ret, s.endTick_eq_afterAsking ▸ step_idle_quiet hv hr hp hcv⟩
  | true =>
    have ho : cmdOp s.port.cmd = Op.changed := hc.resolve_left (by simp [hcv])
    exact ⟨(opChanged s).ret, opChanged_endTick s ▸ step_changed hv ⟨hr, hp, hcv, rfl⟩ ho⟩

theorem run_afterAsking {n : Nat} (hv : s.params.Valid) (hp : s.ph = Ph.idle) (hr : s.NoReset n)
    (hc : ∀ k, k < n → (s.portAt k).cmdValid = false ∨ cmdOp (s.portAt k).cmd = Op.changed) :
    ∃ r, run n s = .next (s.afterAsking n r) := by
  induction n with
  | zero => exact ⟨s.ret, rfl⟩
  | succ n ih =>
    obtain ⟨q, hq⟩ := ih (hr.mono n.le_succ) fun k hk => hc k (Nat.lt_succ_of_lt hk)
    have hport : (s.afterAsking n q).port = s.portAt n := s.afterAsking_portAt n 0 q
    obtain ⟨r, hstep⟩ := step_afterAsking (s := s.afterAsking n q) hv hp
      (hport ▸ hr n n.lt_succ_self) (hport ▸ hc n n.lt_succ_self)
    rw [State.afterAsking_add] at hstep
    exact ⟨r, by rw [run_add hq 1, run_succ hstep, run_zero]⟩

/-- Settles O16: the ticks before have written `RET` alone, so the last CHANGED compares the samples of the start. -/
theorem repeatedChangedAgrees : Obligations.RepeatedChangedAgrees := by
  intro n s hv hp hr hc hvalid ho
  obtain ⟨r, hrun⟩ := run_afterAsking hv hp (fun k hk => hr k hk.le) hc
  have hport : (s.afterAsking n r).port = s.portAt n := s.afterAsking_portAt n 0 r
  have haccepts : (s.afterAsking n r).Accepts (s.portAt n).cmd :=
    ⟨hport ▸ hr n le_rfl, hp, hport ▸ hvalid, congrArg TickInput.cmd hport⟩
  exact ⟨_, _, hrun, step_changed hv haccepts ho, opChanged_ret _, rfl⟩

/-! ### The comparator at the operation level (R173) -/

theorem opChanged_opAcquire_ret (a : Level) (d : Fin 16 → Level) (s : State) :
    (opChanged (opAcquire a d s)).ret = if acquisition a d = s.lp then 0x00 else 0x01 := rfl

/-- Asking again changes nothing. -/
theorem opChanged_iterate_succ (n : Nat) (s : State) : opChanged^[n + 1] s = opChanged s := by
  have hfixed : opChanged (opChanged s) = opChanged s := rfl
  rw [Function.iterate_succ_apply, Function.iterate_fixed hfixed]

/-- After a DECODE the baseline is the sample before it. -/
theorem opChanged_opAcquire_opDecode_ret (a : Level) (d : Fin 16 → Level) (e : Bool) (s : State) :
    (opChanged (opAcquire a d (opDecode e s))).ret = if acquisition a d = s.lr then 0x00 else 0x01 := by
  rw [opChanged_opAcquire_ret, opDecode_lp]

/-- Settles O21: each CHANGED compares the last sample with the baseline, which only the DECODE has moved. -/
theorem comparatorProperties : Obligations.ComparatorProperties := by
  refine ⟨fun a a' d d' e s hsame => ⟨?_, ?_⟩, fun a d s => ⟨fun hne n => ?_, fun a' d' heq => ?_⟩, fun e s => ?_,
    fun a d e s => ?_⟩
  · rw [opChanged_opAcquire_opDecode_ret]
    exact if_pos hsame.symm
  · rw [opChanged_opAcquire_ret, opChanged_opAcquire_ret, ← hsame]
    rfl
  · rw [opChanged_iterate_succ, opChanged_opAcquire_ret]
    exact if_neg hne
  · rw [opChanged_opAcquire_ret]
    exact if_pos heq
  · exact if_pos ((opDecode_lr e s).trans (opDecode_lp e s).symm)
  · rw [opChanged_opAcquire_opDecode_ret]
    exact if_pos rfl

end Sys2Proof.Machine
end

section
/-! The mode detector (43_mode_detector.md R180, R183): the mode as the low nibble of byte 1, that nibble as the levels
of samples 12 to 15, and the mode at the ports. -/

namespace Sys2Proof.Machine

/-! ### The mode and the low nibble of byte 1 -/

theorem Mode.toBit_eq_zero_iff (m : Mode) : m.toBit = 0 ↔ m = .nes := by cases m <;> decide

theorem modeOf_eq_nes_iff (b : Byte) : modeOf b = .nes ↔ b &&& 0x0F ≠ 0x0F := by
  rw [ne_eq, ← modeOf_eq_snes_iff]
  cases modeOf b <;> decide

/-- The last four bits packed are the low nibble. -/
theorem packByte_and_lowNibble (x0 x1 x2 x3 x4 x5 x6 x7 : Bool) :
    packByte x0 x1 x2 x3 x4 x5 x6 x7 &&& 0x0F = packByte false false false false x4 x5 x6 x7 := by
  revert x0 x1 x2 x3 x4 x5 x6 x7
  decide

theorem packByte_lowNibble_eq_ones_iff (x4 x5 x6 x7 : Bool) :
    packByte false false false false x4 x5 x6 x7 = 0x0F ↔ x4 = true ∧ x5 = true ∧ x6 = true ∧ x7 = true := by
  revert x4 x5 x6 x7
  decide

/-- The low nibble of byte 1 is samples 12 to 15, inverted (41_acquirer.md R147). -/
theorem acquisition_b1_lowNibble (a : Level) (d : Fin 16 → Level) : (acquisition a d).b1 &&& 0x0F =
    packByte false false false false (inverted (d 12)) (inverted (d 13)) (inverted (d 14)) (inverted (d 15)) :=
  packByte_and_lowNibble ..

/-- The low nibble of byte 1 is all ones exactly when all four lines read L. -/
theorem acquisition_b1_lowNibble_eq_ones_iff (a : Level) (d : Fin 16 → Level) :
    (acquisition a d).b1 &&& 0x0F = 0x0F ↔ d 12 = .L ∧ d 13 = .L ∧ d 14 = .L ∧ d 15 = .L := by
  simp only [acquisition_b1_lowNibble, packByte_lowNibble_eq_ones_iff, inverted_eq_true_iff]

/-- Settles O24: the low nibble is 0xF exactly when all four levels are L, so one H among them is enough for NES. -/
theorem modeOfLinePatterns : Obligations.ModeOfLinePatterns := by
  intro a d
  have anyHigh (h : d 12 = .H ∨ d 13 = .H ∨ d 14 = .H ∨ d 15 = .H) :
      (acquisition a d).b1 &&& 0x0F ≠ 0x0F ∧ modeOf (acquisition a d).b1 = .nes := by
    rw [modeOf_eq_nes_iff, and_self, ne_eq, acquisition_b1_lowNibble_eq_ones_iff]
    rcases h with h | h | h | h <;> simp [h]
  refine ⟨fun h => ?_, fun h => ?_, anyHigh⟩
  · obtain ⟨h12, h13, h14, h15⟩ := h
    refine ⟨?_, (anyHigh (.inl h12)).2⟩
    rw [acquisition_b1_lowNibble, h12, h13, h14, h15]
    rfl
  · have hones := (acquisition_b1_lowNibble_eq_ones_iff a d).2 h
    exact ⟨hones, (modeOf_eq_snes_iff _).2 hones⟩

/-! ### The mode at the ports -/

/-- A report is of the kind its sample's mode says (44_button_decoder.md R191, R192). -/
theorem reportOf_kind (r : RawSample) : (reportOf r).kind = modeOf r.b1 := by
  cases h : modeOf r.b1 with
  | nes => rw [reportOf_of_nes h, Report.kind]
  | snes => rw [reportOf_of_snes h, Report.kind]

theorem State.ports_mode (s : State) : s.ports.mode = (modeOf s.lr.b1).toBit := rfl

/-- After a DECODE with a destination the kind port shows the mode of the last sample. -/
theorem opDecode_ports_rptKind (s : State) : (opDecode true s).ports.rptKind = (modeOf s.lr.b1).toBit :=
  congrArg Mode.toBit (reportOf_kind s.lr)

/-- Settles O25: both ports show the mode of the last sample, and the mode is its low nibble of byte 1. -/
theorem modeIsLowNibbleOfByteOne : Obligations.ModeIsLowNibbleOfByteOne := by
  refine fun s => ⟨?_, ?_, opDecode true s, exec_decode_eq true s, ?_⟩
  · rw [s.ports_mode, Mode.toBit_eq_one_iff, modeOf_eq_snes_iff]
  · rw [s.ports_mode, Mode.toBit_eq_zero_iff, modeOf_eq_nes_iff]
  · rw [opDecode_ports_rptKind, Mode.toBit_eq_one_iff, modeOf_eq_snes_iff]

end Sys2Proof.Machine
end

section
/-! The button decoder (44_button_decoder.md R191 to R194, R196, R198, R199): the two report forms in numbers, the copy
to the baseline, and what follows for `changed`. -/

namespace Sys2Proof.Machine

variable {s t : State}

/-! ### The two report forms (R191, R192) -/

/-- The mode function on the value of byte 1 (43_mode_detector.md R180). -/
theorem modeOf_eq_snes_iff_toNat (b : Byte) : modeOf b = .snes ↔ b.toNat % 16 = 15 := by
  have hnibble : (b &&& 0x0F).toNat = b.toNat % 2 ^ 4 := Nat.and_two_pow_sub_one_eq_mod b.toNat 4
  rw [modeOf_eq_snes_iff, ← BitVec.toNat_inj, hnibble]
  rfl

/-- Byte 1 stands in the upper half of the mask: the mask is two base-256 digits. -/
theorem snesMask_eq_ofNat (b0 b1 : Byte) : snesMask b0 b1 = BitVec.ofNat 16 (b1.toNat * 256 + b0.toNat) := by
  have hvalue : (b1 ++ b0).toNat = b1.toNat * 256 + b0.toNat := by
    rw [BitVec.toNat_append, ← Nat.shiftLeft_add_eq_or_of_lt b0.isLt, Nat.shiftLeft_eq]
  rw [snesMask, ← hvalue, BitVec.ofNat_toNat, BitVec.setWidth_eq]

/-- DECODE with a destination writes the report of the last sample (R190). -/
theorem exec_decode_true_of_report {r : Report} (hr : reportOf s.lr = r) :
    exec (.decode true) s = .next { s with rpt := r, rptValid := true, lp := s.lr } := by
  rw [exec_decode_eq, ← hr]
  rfl

/-- Settles O17: the mode picks the form of the report, and the SNES mask is its two digits. -/
theorem decodeWithDestinationWritesReport : Obligations.DecodeWithDestinationWritesReport := by
  refine fun s => ⟨fun h => exec_decode_true_of_report ?_, fun h => exec_decode_true_of_report ?_⟩
  · rw [reportOf_of_snes ((modeOf_eq_snes_iff_toNat _).2 h), snesMask_eq_ofNat]
  · have hnes : modeOf s.lr.b1 = .nes := by
      cases hm : modeOf s.lr.b1 with
      | nes => rfl
      | snes => exact absurd ((modeOf_eq_snes_iff_toNat _).1 hm) h
    exact reportOf_of_nes hnes

/-- Byte 2 is in no mask (R198). -/
theorem reportOf_mask16_with_b2 (r : RawSample) (b2 : Byte) :
    (reportOf { r with b2 := b2 }).mask16 = (reportOf r).mask16 := by
  cases h : modeOf r.b1 with
  | nes => rw [reportOf_of_nes h, reportOf_of_nes (r := { r with b2 := b2 }) h]; rfl
  | snes => rw [reportOf_of_snes h, reportOf_of_snes (r := { r with b2 := b2 }) h]; rfl

/-- Settles O28: the last raw byte of each form is byte 2, which is the AUX level's own byte. -/
theorem auxiliaryButtonInNoMask : Obligations.AuxiliaryButtonInNoMask := by
  refine ⟨reportOf_mask16_with_b2, fun a d => ⟨fun h => ?_, fun h => ?_⟩⟩
  · rw [reportOf_of_nes h]
    exact auxByte_eq a
  · rw [reportOf_of_snes h]
    exact auxByte_eq a

/-- Byte 1 is in no NES report (R199). -/
theorem reportOf_with_b1_of_nes {r : RawSample} {b1 : Byte} (hr : modeOf r.b1 = .nes) (hb : modeOf b1 = .nes) :
    reportOf { r with b1 := b1 } = reportOf r := by
  rw [reportOf_of_nes hr, reportOf_of_nes (r := { r with b1 := b1 }) hb]

/-- Settles O29: the two samples differ in byte 1, which an NES report does not show. -/
theorem nesReportHidesByteOne : Obligations.NesReportHidesByteOne := by
  intro s b1 hold hnew hne hlr
  refine ⟨?_, opDecode true s, exec_decode_eq true s, ?_, ?_⟩
  · rw [s.changed_iff]
    exact fun heq => hne (congrArg RawSample.b1 (hlr.symm.trans heq))
  · exact (congrArg reportOf hlr).trans (reportOf_with_b1_of_nes hold hnew)
  · rw [opDecode_lp, hlr]

/-! ### The baseline (R193, R194) -/

/-- Settles O18: without a destination the operation is the copy alone. -/
theorem decodeNullOnlyMovesBaseline : Obligations.DecodeNullOnlyMovesBaseline :=
  exec_decode_eq false

/-- With `rst` low an accepted DECODE is the only writer of `LP`. -/
theorem step_lp_of_no_reset (h : step s = .next t) (hr : s.port.rst = false) :
    t.lp = s.lp ∨ ∃ w, s.Accepts w ∧ cmdOp w = Op.decode ∧ t.lp = s.lr := by
  rcases step_tick_cases h hr with ⟨hi, -⟩ | ⟨-, -, rfl⟩ | ⟨hi, hv, ⟨-, rfl⟩ | ⟨-, rfl⟩ | ⟨-, rfl⟩ | ⟨ho, rfl⟩⟩
  · obtain ⟨u, hb, rfl⟩ := step_busy h hr hi
    obtain ⟨hlp, -⟩ := hb.decode_frame
    exact .inl hlp
  · exact .inl rfl
  · exact .inl rfl
  · exact .inl rfl
  · exact .inl rfl
  · exact .inr ⟨s.port.cmd, ⟨hr, hi, hv, rfl⟩, ho, opDecode_lp (cmdD s.port.cmd) s⟩

/-- Settles O19: DECODE reports and copies the one `LR`, and `step_lp_of_no_reset` says who else writes `LP`. -/
theorem decodeAlwaysCopiesBaseline : Obligations.DecodeAlwaysCopiesBaseline := by
  refine ⟨fun d s => ⟨opDecode d s, exec_decode_eq d s, opDecode_lp d s, opDecode_lr d s, ?_⟩, fun s t hr h hne => ?_⟩
  · rintro rfl
    rfl
  · exact (step_lp_of_no_reset h hr).resolve_left hne

/-! ### `changed` after a DECODE (R196) -/

theorem State.changed_eq_false_iff (s : State) : s.changed = false ↔ s.lr = s.lp := by
  rw [Bool.eq_false_iff, ne_eq, s.changed_iff, not_not]

/-- An accepted DECODE leaves the two samples equal. -/
theorem step_decode_changed {w : BitVec 3} (hv : s.params.Valid) (hw : s.Accepts w) (ho : cmdOp w = Op.decode) :
    ∃ t, step s = .next t ∧ t.changed = false := by
  obtain ⟨hr, hp, hpresents⟩ := hw
  obtain ⟨-, -, -, hexec⟩ := exec_decodeCommand_of_op w s
  refine ⟨_, step_command hv hr hp hpresents (hexec ho), ?_⟩
  rw [State.changed_eq_false_iff]
  simp

/-- Only a COMMIT of another sample than `LP` sets `changed`: a reset and a DECODE end with equal samples, and no other
tick moves either sample. -/
theorem step_sets_changed (h : step s = .next t) (hs : s.changed = false) (ht : t.changed = true) :
    s.ph = Ph.commit ∧ s.port.rst = false ∧ t.lr ≠ s.lp := by
  have hsame : s.lr = s.lp := s.changed_eq_false_iff.1 hs
  have hdiff : t.lr ≠ t.lp := t.changed_iff.1 ht
  cases hr : s.port.rst with
  | true => exact absurd (by rw [step_rst h hr]; rfl) hdiff
  | false =>
    have hcommit : s.ph = Ph.commit := by
      by_contra hc
      have hlr : t.lr = s.lr := step_lr_of_ne_commit h hr hc
      rcases step_lp_of_no_reset h hr with hlp | ⟨w, -, -, hlp⟩
      · exact hdiff (by rw [hlr, hlp, hsame])
      · exact hdiff (hlr.trans hlp.symm)
    rcases step_lp_of_no_reset h hr with hlp | ⟨w, ⟨-, hidle, -⟩, -⟩
    · exact ⟨hcommit, rfl, hlp ▸ hdiff⟩
    · exact absurd (hidle.symm.trans hcommit) (by decide)

theorem opDecode_opDecode_lp (d e : Bool) (s : State) : (opDecode e (opDecode d s)).lp = (opDecode d s).lp := by
  rw [opDecode_lp, opDecode_lr, opDecode_lp]

/-- Settles O20: the copy makes the samples equal, a COMMIT alone parts them, and a second copy is the first again. -/
theorem decodeClearsChangedUntilCommit : Obligations.DecodeClearsChangedUntilCommit := by
  refine ⟨fun _ _ => step_decode_changed, fun _ _ => step_sets_changed, fun d e s t u ht hu => ?_⟩
  rw [exec_decode_eq] at ht hu
  obtain rfl := Host.Outcome.next.inj ht
  obtain rfl := Host.Outcome.next.inj hu
  refine ⟨opDecode_opDecode_lp d e s, ?_⟩
  rintro rfl rfl
  rfl

end Sys2Proof.Machine
end

section
/-! Exceptions (spec/60_exceptions.md): no tick stops the block (R210), which event of a tick wins (R216), and when
`irq_inhibit` is high (R215). -/

namespace Sys2Proof.Machine

variable {s t : State}

/-! ### No fault and no refusal (R210) -/

/-- Settles O7: every instruction completes, a reset tick does too, and R6 is the only ground for a refusal. -/
theorem stepNeverStops : Obligations.StepNeverStops :=
  fun _ => step_completes

/-! ### The priority of simultaneous events (R216) -/

/-- Settles O10: reset is tried before the fetch, and the fetch takes a command in IDLE only. -/
theorem priorityOfSimultaneousEvents : Obligations.PriorityOfSimultaneousEvents := by
  refine fun s hv => ⟨step_reset hv, fun hr hp => ?_, fun hr hp hc => ?_, step_idle_quiet hv⟩
  · rw [step_eq_afterExec hv hr, State.fetchWord_busy hp]
    rfl
  · rw [step_eq_afterExec hv hr, State.fetchWord_command hp hc]
    rfl

/-! ### `irq_inhibit` (R215) -/

theorem State.ports_irqInhibit_iff (s : State) : s.ports.irqInhibit = true ↔ s.ph = Ph.config :=
  beq_iff_eq

/-- An accepted INIT starts the sequence at CONFIG. -/
theorem step_init_ph {w : BitVec 3} (hv : s.params.Valid) (ha : s.Accepts w) (ho : cmdOp w = Op.init) :
    ∃ t, step s = .next t ∧ t.ph = Ph.config := by
  obtain ⟨hr, hp, hw⟩ := ha
  obtain ⟨hinit, -⟩ := exec_decodeCommand_of_op w s
  exact ⟨_, step_command hv hr hp hw (hinit ho), rfl⟩

/-- CONFIG is entered in no other way: a reset tick ends in IDLE, and with `rst` low `writeRights` names the writer. -/
theorem step_into_config (h : step s = .next t) (hc : t.ph = Ph.config) : ∃ w, s.Accepts w ∧ cmdOp w = Op.init := by
  cases hr : s.port.rst with
  | true =>
    rw [step_rst h hr] at hc
    exact absurd hc (show Ph.idle ≠ Ph.config by decide)
  | false =>
    obtain ⟨-, hrights, -⟩ := writeRights s t h
    obtain ⟨-, hinit, -⟩ := hrights hr
    exact hinit hc

/-- Settles O44: INIT alone leads to CONFIG, and it is accepted in IDLE, where the port is 0. -/
theorem irqInhibitOneTickPerInit : Obligations.IrqInhibitOneTickPerInit := by
  refine ⟨State.ports_irqInhibit_iff, fun s w hv ha ho => ?_, fun s t h ht => ?_⟩
  · obtain ⟨t, hstep, hph⟩ := step_init_ph hv ha ho
    exact ⟨t, hstep, t.ports_irqInhibit_iff.2 hph⟩
  · obtain ⟨w, ⟨hr, hidle, hw⟩, ho⟩ := step_into_config h (t.ports_irqInhibit_iff.1 ht)
    refine ⟨?_, w, ⟨hr, hidle, hw⟩, ho⟩
    rw [Bool.eq_false_iff, ne_eq, s.ports_irqInhibit_iff, hidle]
    decide

end Sys2Proof.Machine
end

section
/-! Reset (spec/70_reset_and_hazards.md): the reset values (R230), what the outputs show until a command is accepted
(R231), and the first INIT (R234). -/

namespace Sys2Proof.Machine

variable {s t : State}

/-! ### The reset values (R230) -/

/-- The report of the reset state is all 41 bits zero. -/
theorem Report.flatten_zero : (Report.nes 0x00 0x00 0x00).flatten = 0 := by decide

/-- Settles O8: a tick with `rst` high ends in `State.resetTick`, which is built from the reset values. -/
theorem resetSetsEveryRegister : Obligations.ResetSetsEveryRegister :=
  fun _ hv hr => ⟨_, step_reset hv hr, rfl, rfl, rfl, Report.flatten_zero, rfl, rfl, rfl, rfl, rfl, rfl, rfl, rfl, rfl,
    rfl, rfl, rfl, rfl, rfl⟩

/-! ### The outputs until a command is accepted (R231) -/

/-- The next `n` ticks bring neither a reset nor a command. -/
def State.QuietFor (s : State) (n : Nat) : Prop :=
  ∀ k, k < n → (s.portAt k).rst = false ∧ (s.portAt k).cmdValid = false

theorem State.QuietFor.endTick {n : Nat} (h : s.QuietFor (n + 1)) : s.endTick.QuietFor n := fun k hk => by
  rw [State.endTick_portAt]
  exact h (k + 1) (Nat.succ_lt_succ hk)

/-- An idle block left alone does nothing but pass the ticks. -/
theorem run_idle_quiet {n : Nat} (hv : s.params.Valid) (hp : s.ph = Ph.idle) (hq : s.QuietFor n) :
    run n s = .next (State.endTick^[n] s) := by
  induction n generalizing s with
  | zero => rfl
  | succ n ih =>
    obtain ⟨hr, hc⟩ := hq 0 n.succ_pos
    rw [run_succ (step_idle_quiet hv hr hp hc), Function.iterate_succ_apply]
    exact ih hv hp hq.endTick

/-- The outputs are functions of the registers, which the tick's end does not write. -/
theorem State.iterate_endTick_ports (s : State) (n : Nat) : (State.endTick^[n] s).ports = s.ports := by
  induction n with
  | zero => rfl
  | succ n ih =>
    rw [Function.iterate_succ_apply']
    exact ih

/-- No output shows the parameters, the inputs to come or the counter of the free levels. -/
theorem State.resetTick_ports (s : State) : s.resetTick.ports = State.reset.ports := rfl

/-- Settles O9: the reset tick leaves the block idle, and the quiet ticks after it keep the outputs of its end. -/
theorem portsAfterReset : Obligations.PortsAfterReset := by
  intro n s t hr h hq
  have hv := step_valid h
  obtain rfl := step_rst h hr
  refine ⟨_, run_idle_quiet hv rfl hq, ?_⟩
  rw [State.iterate_endTick_ports, State.resetTick_ports]
  decide

/-! ### The first INIT (R234) -/

/-- Settles O54: `initRefinesOperation` gives the end state; INIT does not write `LP`, so `changed` compares with the
zeros of the reset. -/
theorem bootByInit : Obligations.BootByInit := by
  intro s t w n hv hr h ha ho hn hnr
  obtain rfl := step_rst h hr
  obtain ⟨a, haux⟩ : ∃ a, a = s.resetTick.auxLevelAt 0b1111 (Timing.auxTick s.resetTick.params + 1) := ⟨_, rfl⟩
  obtain ⟨d, hdata⟩ : ∃ d : Fin 16 → Level,
      ∀ k, d k = s.resetTick.dataLevelAt 0b1111 (Timing.dataTick s.resetTick.params k.val + 1) := ⟨_, fun _ => rfl⟩
  have hrun := initRefinesOperation s.resetTick w a d n hv ha ho hn hnr haux hdata
  exact ⟨_, a, d, hrun, rfl, rfl, rfl, rfl, rfl, rfl, rfl, rfl, haux, hdata, State.changed_iff _⟩

end Sys2Proof.Machine
end
